-- ==== Sys2Proof/Word.lean ====
section
/-! DEFINITION. The words of the Feistel cipher engine: the bit vector of 40_bitvector.md R70 and the
16-bit command word of 30_encoding.md R54. -/

namespace Sys2Proof

/-- A BitVector of R70: an ordered sequence of bits whose length is always known. The head of the list
is position 1, the most significant bit (R8, R32). The length may be any natural number, 0 included. -/
abbrev BV := List Bool

/-- A command word, format CMD16 (R54). -/
abbrev CmdWord := BitVec 16

end Sys2Proof
end

