-- ==== Sys2Proof/Config.lean ====
section
/-! DEFINITION. What an instance of the engine is built with (the table set of 41_tableset.md R90) and
the free values: what the spec leaves unspecified while the machine goes on. -/

namespace Sys2Proof

/-- The table set `T` of R90, field for field. Tables are sequences of natural numbers whose positions
count from 1 (R8); `substitutionBoxes` is the sequence of boxes, each a list of rows (R92). -/
structure TableSet where
  blockBits : Nat
  keyBits : Nat
  halfBits : Nat
  roundCount : Nat
  leftHalfBits : Nat
  rightHalfBits : Nat
  expandedBits : Nat
  roundKeyBits : Nat
  sboxOutBits : Nat
  initialPermutation : List Nat
  finalPermutation : List Nat
  keyPermutation1 : List Nat
  keyPermutation2 : List Nat
  shiftSchedule : List Nat
  expansionTable : List Nat
  outputPermutation : List Nat
  substitutionBoxes : List (List (List Nat))
deriving DecidableEq, Repr

/-! ### Free values

Each is an uninterpreted constant: nothing in Lean can evaluate it or prove a value of it. The first
argument is `State.draws`, so that every look at an unspecified quantity is a fresh draw (93 part 1,
treatment 'any value'). -/

/-- FREE VALUE, log entry 7. The `dout` word where it is unspecified: while BUSY = 1 (R229) and while
`DOUT = none` (R60). The port shows its low `DW` bits. -/
opaque Config.freeDout : Nat → Nat

/-- FREE VALUE, log entry 7. `dout_len` while BUSY = 1 (R229). -/
opaque Config.freeDoutLen : Nat → BitVec 8

/-- FREE VALUE, log entry 7. `errmask` while BUSY = 1 (R229). -/
opaque Config.freeErrmask : Nat → BitVec 16

/-- FREE VALUE, log entry 7. The bits ERR, KEYS and DV of `status` while BUSY = 1 (R229). -/
opaque Config.freeStatusBit : Nat → Nat → Bool

/-- FREE VALUE, log entry 7. `rsp_code` while `rsp_valid = 0` (R50). -/
opaque Config.freeRspCode : Nat → BitVec 4

/-- FREE VALUE, log entry 7. `rsp_has_data` while `rsp_valid = 0` (R50). -/
opaque Config.freeRspHasData : Nat → Bool

/-- FREE VALUE, log entry 8. Bit `k ≥ DW` of an operand whose `din_len` exceeds `DW`: R33 says the port
cannot carry it. -/
opaque Config.uncarriedBit : Nat → Nat → Bool

end Sys2Proof
end

