-- ==== Sys2Proof/Syntax.lean ====
section
/-! DEFINITION. The commands of spec/opcode_table.json, one constructor per row (30_encoding.md R56). -/

namespace Sys2Proof

/-- The seven commands of R56. The data operand is no part of the command word: it arrives on the
`din_len`, `din` lines (R55) and the meanings read it from the state. `idx` is the unsigned number of
R57, used as is; `Instr.wellFormed` bounds it. -/
inductive Instr where
  | nop
  | keyload
  | rkrd (idx : Nat)
  | rkwr (idx : Nat)
  | enc
  | dec
  | clrerr
deriving DecidableEq, Repr

end Sys2Proof
end

