-- ==== Sys2Proof/WellFormed.lean ====
section
/-! DEFINITION. Which commands the format CMD16 can carry (30_encoding.md R54, R57). -/

namespace Sys2Proof

/-- The `idx` field is an unsigned 8-bit number (R57), so an index is at most 255 (R61). Nothing else
in a command can be ill-formed. -/
def Instr.wellFormed : Instr → Bool
  | .nop => true
  | .keyload => true
  | .rkrd idx => Nat.blt idx 256
  | .rkwr idx => Nat.blt idx 256
  | .enc => true
  | .dec => true
  | .clrerr => true

end Sys2Proof
end

