-- ==== Sys2Proof/Decode.lean ====
section
/-! DEFINITION. The decoder of 30_encoding.md R58 and R59, total on all 65536 command words, and the
encoder written from the opcode map R56. -/

namespace Sys2Proof

/-- Why a word is illegal: the three cases of R58. The engine answers all three with the one code
IllegalCommand. -/
inductive Illegal where
  /-- `op` is 0x7 to 0xF. -/
  | reservedOpcode
  /-- `rsv ≠ 0000`. -/
  | reservedField
  /-- `idx ≠ 0x00` on a command that has no index. -/
  | strayIndex
deriving DecidableEq, Repr

/-- Field `op`, bits [15:12] (R54). -/
def opField (w : CmdWord) : Nat := (w.extractLsb' 12 4).toNat

/-- Field `rsv`, bits [11:8] (R54). -/
def rsvField (w : CmdWord) : Nat := (w.extractLsb' 8 4).toNat

/-- Field `idx`, bits [7:0] (R54, R57). -/
def idxField (w : CmdWord) : Nat := (w.extractLsb' 0 8).toNat

/-- A command without an index is legal only with `idx = 0x00` (R58). -/
def withoutIndex (idx : Nat) (i : Instr) : Except Illegal Instr :=
  if idx = 0 then .ok i else .error .strayIndex

/-- The decode of R59, up to the table-set check (which the meanings make: it reads the state). -/
def decode (w : CmdWord) : Except Illegal Instr :=
  if 7 ≤ opField w then .error .reservedOpcode
  else if rsvField w ≠ 0 then .error .reservedField
  else match opField w with
    | 0 => withoutIndex (idxField w) .nop
    | 1 => withoutIndex (idxField w) .keyload
    | 2 => .ok (.rkrd (idxField w))
    | 3 => .ok (.rkwr (idxField w))
    | 4 => withoutIndex (idxField w) .enc
    | 5 => withoutIndex (idxField w) .dec
    | 6 => withoutIndex (idxField w) .clrerr
    | _ => .error .reservedOpcode

/-- The command word of a well-formed command: the `match` column of R56, plus the index (R125, R126). -/
def encode : Instr → CmdWord
  | .nop => 0x0000#16
  | .keyload => 0x1000#16
  | .rkrd idx => 0x2000#16 + BitVec.ofNat 16 idx
  | .rkwr idx => 0x3000#16 + BitVec.ofNat 16 idx
  | .enc => 0x4000#16
  | .dec => 0x5000#16
  | .clrerr => 0x6000#16

/-- The instruction read from a row of spec/opcode_table.json whose bits are `w`: every command is one
16-bit word (R54), so a row is at most 16 bits and the bits above `nbits` are 0. -/
def decodeTableWord (nbits w : Nat) : Option Instr :=
  if Nat.ble nbits 16 then
    match decode (BitVec.ofNat 16 (w % 2 ^ nbits)) with
    | .ok i => some i
    | .error _ => none
  else none

end Sys2Proof
end

