-- ==== Sys2Proof/Machine/Tables.lean ====
section
/-! DEFINITION. Derived widths of a table set (41_tableset.md R91, 00_scope.md R7) and its validation
`Validate(T)`, constraints V1 to V14 (R93 to R107). -/

namespace Sys2Proof.Machine

/-! ### Derived quantities -/

/-- `boxCount = len(S)` (R91). -/
def boxCount (T : TableSet) : Nat := T.substitutionBoxes.length

/-- `chunkBits = expandedBits / boxCount` (R91), meant where `boxCount` divides `expandedBits`. -/
def chunkBits (T : TableSet) : Nat := T.expandedBits / boxCount T

/-- `cdBits = leftHalfBits + rightHalfBits` (R91). -/
def cdBits (T : TableSet) : Nat := T.leftHalfBits + T.rightHalfBits

/-- `columns = 2^(chunkBits − 2)` (R91), meant where `chunkBits ≥ 2`. -/
def columns (T : TableSet) : Nat := 2 ^ (chunkBits T - 2)

/-- The data port width `DW = max(blockBits, keyBits, roundKeyBits)` (R7, R50). -/
def dataWidth (T : TableSet) : Nat := max T.blockBits (max T.keyBits T.roundKeyBits)

/-! ### Reading the table space -/

/-- `TabRead(tab, i)`: entry `i` of a table, positions counted from 1 (R8, R30); `none` where the table
has no such entry. -/
def tabRead (tab : List Nat) (i : Nat) : Option Nat :=
  if 1 ≤ i then tab[i - 1]? else none

/-! ### Validation -/

/-- Every entry is in `1..n`. -/
def entriesWithin (tab : List Nat) (n : Nat) : Bool :=
  tab.all fun t => Nat.ble 1 t && Nat.ble t n

/-- No entry occurs twice. -/
def noRepeat : List Nat → Bool
  | [] => true
  | t :: ts => (ts.all fun u => !(Nat.beq u t)) && noRepeat ts

/-- A selection of `count` distinct source positions out of `1..n`: stated length, in range, no repeat. -/
def isSelection (tab : List Nat) (count n : Nat) : Bool :=
  Nat.beq tab.length count && entriesWithin tab n && noRepeat tab

/-- V1 (R94): `initialPermutation` is a permutation of `1..blockBits`. -/
def v1 (T : TableSet) : Bool := isSelection T.initialPermutation T.blockBits T.blockBits

/-- V2 (R95): `finalPermutation` is a permutation of `1..blockBits`. -/
def v2 (T : TableSet) : Bool := isSelection T.finalPermutation T.blockBits T.blockBits

/-- V3 (R96): `keyPermutation1` selects `cdBits` distinct positions of `1..keyBits`. -/
def v3 (T : TableSet) : Bool := isSelection T.keyPermutation1 (cdBits T) T.keyBits

/-- V4 (R97): `keyPermutation2` selects `roundKeyBits` distinct positions of `1..cdBits`. -/
def v4 (T : TableSet) : Bool := isSelection T.keyPermutation2 T.roundKeyBits (cdBits T)

/-- V5 (R98): `shiftSchedule` has exactly `roundCount` entries. -/
def v5 (T : TableSet) : Bool := Nat.beq T.shiftSchedule.length T.roundCount

/-- V6 (R99): `expansionTable` has `expandedBits` entries in `1..halfBits`; repeats are allowed. -/
def v6 (T : TableSet) : Bool :=
  Nat.beq T.expansionTable.length T.expandedBits && entriesWithin T.expansionTable T.halfBits

/-- V7 (R100): at least one box, `boxCount` divides `expandedBits`, chunks of at least 2 bits, and every
box has 4 rows of `2^(chunkBits − 2)` entries. -/
def v7 (T : TableSet) : Bool :=
  Nat.ble 1 (boxCount T) && Nat.beq (T.expandedBits % boxCount T) 0 && Nat.ble 2 (chunkBits T) &&
    T.substitutionBoxes.all fun box =>
      Nat.beq box.length 4 && box.all fun row => Nat.beq row.length (columns T)

/-- V8 (R101): `outputPermutation` is a permutation of `1..halfBits`. -/
def v8 (T : TableSet) : Bool := isSelection T.outputPermutation T.halfBits T.halfBits

/-- V9 (R102): `halfBits ≥ 1` and `blockBits = 2 · halfBits`. -/
def v9 (T : TableSet) : Bool := Nat.ble 1 T.halfBits && Nat.beq T.blockBits (2 * T.halfBits)

/-- V10 (R103): `roundKeyBits = expandedBits`. -/
def v10 (T : TableSet) : Bool := Nat.beq T.roundKeyBits T.expandedBits

/-- V11 (R104): `sboxOutBits ≥ 1`, `boxCount · sboxOutBits = halfBits`, and every S-box entry is below
`2^sboxOutBits`. -/
def v11 (T : TableSet) : Bool :=
  Nat.ble 1 T.sboxOutBits && Nat.beq (boxCount T * T.sboxOutBits) T.halfBits &&
    T.substitutionBoxes.all fun box => box.all fun row => row.all fun x => Nat.blt x (2 ^ T.sboxOutBits)

/-- V12 (R105): `roundCount`, `leftHalfBits` and `rightHalfBits` are at least 1. -/
def v12 (T : TableSet) : Bool :=
  Nat.ble 1 T.roundCount && Nat.ble 1 T.leftHalfBits && Nat.ble 1 T.rightHalfBits

/-- `IP(FP(i)) = i` for the positions `i`, `i + 1`, … that the list `fp` holds the entries of. -/
def invertsFrom (ip : List Nat) : Nat → List Nat → Bool
  | _, [] => true
  | i, t :: ts => (match tabRead ip t with
      | some j => Nat.beq j i
      | none => false) && invertsFrom ip (i + 1) ts

/-- V13 (R106): `finalPermutation` is the inverse of `initialPermutation`, `IP(FP(i)) = i` for every
`1 ≤ i ≤ blockBits`. -/
def v13 (T : TableSet) : Bool := invertsFrom T.initialPermutation 1 T.finalPermutation

/-- V14 (R107): `blockBits`, `keyBits`, `roundKeyBits` and `roundCount` are at most 255. -/
def v14 (T : TableSet) : Bool :=
  Nat.ble T.blockBits 255 && Nat.ble T.keyBits 255 && Nat.ble T.roundKeyBits 255 &&
    Nat.ble T.roundCount 255

/-- The number of the first check that fails, counting from `n`, or 0 when all hold. -/
def firstViolated : Nat → List Bool → Nat
  | _, [] => 0
  | n, holds :: rest => if holds then firstViolated (n + 1) rest else n

/-- `Validate(T)` (R93): the number of the first of V1 to V14 that does not hold, or 0. -/
def validate (T : TableSet) : Nat :=
  firstViolated 1
    [v1 T, v2 T, v3 T, v4 T, v5 T, v6 T, v7 T, v8 T, v9 T, v10 T, v11 T, v12 T, v13 T, v14 T]

/-- The open parameter REDUCED8 (R113, D14): any table set that passes validation with `blockBits = 8`
and `roundCount = 1`. The source fixes nothing more of it, and neither does the model (log entry 3). -/
def isReduced8 (T : TableSet) : Bool :=
  Nat.beq (validate T) 0 && Nat.beq T.blockBits 8 && Nat.beq T.roundCount 1

end Sys2Proof.Machine
end

