-- ==== Sys2Proof/Machine/State.lean ====
section
/-! DEFINITION. The state of one engine instance (10_state.md R10), the reset state (R23), and the
reasons a step can stop. State is plain data. -/

namespace Sys2Proof.Machine

/-- The twelve error names of R190, in the order of their codes 0x1 to 0xC. -/
inductive Err where
  | parseError
  | invalidBlockLength
  | invalidKeyLength
  | malformedTableSet
  | lengthMismatch
  | blockSizeMismatch
  | outputWidthMismatch
  | indexOutOfRange
  | invalidWidth
  | illegalCommand
  | roundKeyMissing
  | badRoundIndex
deriving DecidableEq, Repr

/-- A response (R52, R60): code OK with or without data, or an error, which never carries data (R198). -/
inductive Response where
  | ok (data : Option BV)
  | error (e : Err)
deriving DecidableEq, Repr

/-- The sequencer register `SEQ` (R15); the round counter is part of it. -/
inductive Seq where
  | idle
  | ksInit
  | ksRound (r : Nat)
  | initial
  | roundExecuting (r : Nat)
  | swapped
  | final
deriving DecidableEq, Repr

/-- What the host drives on the input lines of R50 when the engine next looks at them. `din` is the port
word read as a number (R33). `watch` is no port: it is scheduling data of the model (log entry 5) that
says whether the next look comes after each micro-step (`true`) or when the command is done (`false`). -/
structure PortIn where
  rst : Bool
  cmdValid : Bool
  cmdWord : CmdWord
  dinLen : BitVec 8
  din : Nat
  watch : Bool
deriving DecidableEq, Repr

/-- Lines on which the host does nothing: no reset, no command offered. -/
def quietLine : PortIn :=
  { rst := false, cmdValid := false, cmdWord := 0#16, dinLen := 0#8, din := 0, watch := false }

/-- The architectural state of R10, the response lines of R52, the instance's table set (R24, log
entry 1) and two fields of the model's own, `inputs` and `draws`. STATUS is a function of it (R18). -/
structure State where
  /-- The table set `T` the instance was built with. Nothing writes it (R24). -/
  tables : TableSet
  /-- `L` (R12). -/
  l : Option BV
  /-- `R` (R12). -/
  r : Option BV
  /-- `C` (R13). -/
  c : Option BV
  /-- `D` (R13). -/
  d : Option BV
  /-- `BLK` (R14). -/
  blk : Option BV
  /-- `KEYIN` (R14). -/
  keyin : Option BV
  /-- `DIRF` (R14): false is 0 (ENC), true is 1 (DEC). -/
  dirf : Option Bool
  /-- `SEQ` (R15). -/
  seq : Seq
  /-- `RK[1..roundCount]` (R16), `RK[1]` first. -/
  rk : List (Option BV)
  /-- `DOUT` (R17). -/
  dout : Option BV
  /-- `ERRMASK` (R19). -/
  errmask : BitVec 16
  /-- `TSVIOL` (R20). -/
  tsviol : BitVec 8
  /-- The response issued in the step just taken: `rsp_valid = 1` exactly when it is present (R52). -/
  rsp : Option Response
  /-- MODEL'S OWN (log entry 4): what the host will drive, next look first; after the last, quiet lines. -/
  inputs : List PortIn
  /-- MODEL'S OWN (log entry 7): how many looks have been taken; free values are drawn by it. -/
  draws : Nat
deriving DecidableEq, Repr

/-- What stops the machine. No command on any state the engine can reach raises one: each names a
situation the spec excludes (log entry 9), and stopping there is SAFE. -/
inductive Fault where
  /-- A micro-step reads a transient or a round key that holds `none`; R11 says no rule does. Raised by
  the micro-steps. Safe. -/
  | emptyRegister
  /-- `SEQ` holds a round outside `1..roundCount`, for which R124 and R164 enable no micro-step. Raised
  by the micro-steps. Safe. -/
  | roundOutOfRange
  /-- A table read outside its table: R148 says an index is never wrapped, and validation excludes the
  case. Raised by the rotation-amount and S-box lookups. Safe. -/
  | tableReadOutside
  /-- An S-box entry that does not fit `sboxOutBits` (R76 requires `x < 2^N`). Raised by the S-box lookup;
  V11 excludes it. Safe. -/
  | entryTooWide
  /-- A chunk of fewer than 2 bits has no row address (R144). Raised by the S-box lookup; V7 excludes it.
  Safe. -/
  | chunkTooNarrow
deriving DecidableEq, Repr

/-- Why an instruction has no meaning. -/
inductive Refusal where
  /-- The instruction has no meaning yet. Raised by `exec` alone, in an arm that rejects its instruction
  by name; safe. No arm does. -/
  | notModelled (mnemonic : String)
deriving DecidableEq, Repr

/-- The outcome of a step or of a command. -/
abbrev Result := Host.Outcome State Fault Refusal

/-- The state right after reset of an instance built with `T` (R23, R220): idle, every round key and
DOUT `none`, no error flag, `TSVIOL = Validate(T)`, transients `none` (R23), no response. -/
def State.resetOf (T : TableSet) (inputs : List PortIn) (draws : Nat) : State where
  tables := T
  l := none
  r := none
  c := none
  d := none
  blk := none
  keyin := none
  dirf := none
  seq := .idle
  rk := List.replicate T.roundCount none
  dout := none
  errmask := 0#16
  tsviol := BitVec.ofNat 8 (validate T)
  rsp := none
  inputs := inputs
  draws := draws

/-- The machine right after reset: the FULL64 instance (log entry 1), the host driving nothing yet. -/
def State.reset : State := State.resetOf full64 [] 0

end Sys2Proof.Machine
end

