-- ==== Sys2Proof/Machine/Flags.lean ====
section
/-! DEFINITION. The flags: response codes (60_exceptions.md R190), the sticky ERRMASK (R199) and the
STATUS word (10_state.md R18). No flag depends on data (R77). -/

namespace Sys2Proof.Machine

/-- The numeric code of an error (R190). -/
def errCode : Err → Nat
  | .parseError => 0x1
  | .invalidBlockLength => 0x2
  | .invalidKeyLength => 0x3
  | .malformedTableSet => 0x4
  | .lengthMismatch => 0x5
  | .blockSizeMismatch => 0x6
  | .outputWidthMismatch => 0x7
  | .indexOutOfRange => 0x8
  | .invalidWidth => 0x9
  | .illegalCommand => 0xA
  | .roundKeyMissing => 0xB
  | .badRoundIndex => 0xC

/-- The 4-bit response code (R190): 0x0 is OK. -/
def responseCode : Response → BitVec 4
  | .ok _ => 0#4
  | .error e => BitVec.ofNat 4 (errCode e)

/-- `ERRMASK[k] <- 1` for the code `k` of an error response; OK sets nothing (R199, R19). -/
def stickyAfter : Response → BitVec 16 → BitVec 16
  | .ok _, m => m
  | .error e, m => m ||| BitVec.twoPow 16 (errCode e)

/-- `STATUS[0]`, BUSY: `SEQ ≠ Idle` (R18). -/
def busyBit (s : State) : Bool := !(decide (s.seq = .idle))

/-- `STATUS[1]`, ERR: `ERRMASK ≠ 0` (R18). -/
def errBit (s : State) : Bool := !(decide (s.errmask = 0#16))

/-- `STATUS[2]`, TSERR: `TSVIOL ≠ 0` (R18). -/
def tserrBit (s : State) : Bool := !(decide (s.tsviol = 0#8))

/-- `STATUS[3]`, KEYS: every `RK[i]` holds a value (R18). DESIGN CHOICE (log entry 19): a store without
entries (`roundCount = 0`) gives 0, the value R23 states for reset, and not the 1 of R18's empty 'every'. -/
def keysBit (s : State) : Bool := !s.rk.isEmpty && s.rk.all Option.isSome

/-- `STATUS[4]`, DV: `DOUT` holds a value (R18). -/
def dvBit (s : State) : Bool := s.dout.isSome

/-- The 8-bit word with BUSY, ERR, TSERR, KEYS, DV at bits 0 to 4 and the reserved bits [7:5] zero (R18). -/
def statusWord (busy err tserr keys dv : Bool) : BitVec 8 :=
  BitVec.ofNat 8 (busy.toNat + 2 * err.toNat + 4 * tserr.toNat + 8 * keys.toNat + 16 * dv.toNat)

/-- `STATUS` (R18). -/
def State.status (s : State) : BitVec 8 :=
  statusWord (busyBit s) (errBit s) (tserrBit s) (keysBit s) (dvBit s)

end Sys2Proof.Machine
end

