-- ==== Sys2Proof/Machine/BitVector.lean ====
section
/-! DEFINITION. The BitVector datapath primitives of 40_bitvector.md (R70 to R77). None of them reads or
writes state. -/

namespace Sys2Proof.Machine

/-- Why a datapath operation gives no value: it raises an error of R190, or the spec gives it no meaning
at all and the machine is stuck. -/
inductive Stop where
  | raise (e : Err)
  | stuck (f : Fault)
deriving DecidableEq, Repr

/-- What a datapath operation gives. -/
abbrev Res (α : Type) := Except Stop α

/-- `bit(v, i)`, positions counted from 1 (R8). Meant for `1 ≤ i ≤ len(v)`. -/
def bit (v : BV) (i : Nat) : Bool := v.getD (i - 1) false

/-- `val(v)`: the unsigned reading, most significant bit first (R8, R76). -/
def val (v : BV) : Nat := v.foldl (fun acc b => 2 * acc + b.toNat) 0

/-- `bv(N, x)`: the vector of length `N` that reads `x` (R8, R76). Meant for `x < 2^N`. -/
def bv (n x : Nat) : BV := (List.range n).reverse.map fun k => x.testBit k

/-- `zeros(N) = bv(N, 0)` (R8). -/
def zeros (n : Nat) : BV := bv n 0

/-- `permute(v, tab)` (R71): output position `i` takes input position `tab(i)`; an entry outside
`1..len(v)` raises IndexOutOfRange. Which offending entry comes first is not observable. -/
def permute (v : BV) (tab : List Nat) : Res BV :=
  if entriesWithin tab v.length then .ok (tab.map (bit v)) else .error (.raise .indexOutOfRange)

/-- `split(v, at)` (R72): the first `at` positions and the rest. -/
def split (v : BV) (at_ : Nat) : Res (BV × BV) :=
  if v.length < at_ then .error (.raise .invalidWidth) else .ok (v.take at_, v.drop at_)

/-- `concat(a, b)`, `a ‖ b` (R73). -/
def concat (a b : BV) : BV := a ++ b

/-- `xor(a, b)` (R74). -/
def xorBits (a b : BV) : Res BV :=
  if a.length ≠ b.length then .error (.raise .lengthMismatch)
  else .ok (List.zipWith (fun x y => x ^^ y) a b)

/-- `rotateLeft(v, n)` (R75): the first `n mod N` bits move to the end; the empty vector is returned
unchanged (D21). -/
def rotateLeft (v : BV) (n : Nat) : BV :=
  if v.length = 0 then v else v.drop (n % v.length) ++ v.take (n % v.length)

/-- The first `n` chunks of `w` bits, in order: chunk `j` is positions `(j−1)·w + 1` to `j·w` (R143). -/
def chunksOf (w : Nat) : Nat → BV → List BV
  | 0, _ => []
  | n + 1, v => v.take w :: chunksOf w n (v.drop w)

end Sys2Proof.Machine
end

