-- ==== Sys2Proof/Machine/Operands.lean ====
section
/-! DEFINITION. The operand forms: the data operand on the input lines (20_memory.md R33, 30_encoding.md
R55), and the round-key store addressed by `idx` (R57, 10_state.md R16). -/

namespace Sys2Proof.Machine

/-- The input lines as the host drives them now. -/
def State.line (s : State) : PortIn := s.inputs.headD quietLine

/-- The bit vector a pair (`din_len`, `din`) denotes (R33): `bit(v, i) = din[din_len − i]`, port bits above
`din_len` ignored. A port of `dw` bits cannot carry bits `k ≥ dw`: those are free (log entry 8). -/
def portVector (dw draw : Nat) (p : PortIn) : BV :=
  (List.range p.dinLen.toNat).reverse.map fun k =>
    if k < dw then p.din.testBit k else Config.uncarriedBit draw k

/-- The data operand of the command on the lines (R55). -/
def State.operand (s : State) : BV := portVector (dataWidth s.tables) s.draws s.line

/-- `RK[i]` (R16), `none` where the entry holds none. -/
def rkRead (s : State) (i : Nat) : Option BV := (s.rk[i - 1]?).join

/-- `RK[i] <- k` (R16). -/
def rkWrite (s : State) (i : Nat) (k : BV) : State := { s with rk := s.rk.set (i - 1) (some k) }

/-- `idx` names an entry of the store: `1 ≤ idx ≤ roundCount` (R57). -/
def indexInRange (s : State) (idx : Nat) : Bool :=
  Nat.ble 1 idx && Nat.ble idx s.tables.roundCount

/-- All values of a list of registers, or `none` when some register holds none. -/
def allPresent : List (Option BV) → Option (List BV)
  | [] => some []
  | none :: _ => none
  | some k :: ks => match allPresent ks with
    | some rest => some (k :: rest)
    | none => none

/-- `(RK[1], …, RK[roundCount])`, or `none` when some entry holds none (R161). -/
def storedKeys (s : State) : Option (List BV) := allPresent s.rk

end Sys2Proof.Machine
end

