-- ==== Sys2Proof/Machine/Ops.lean ====
section
/-! DEFINITION. The shared operations on the state: issuing a response (60_exceptions.md R196), raising an
error, which is the engine's whole trap entry (R197), and the table-set check of decode (R202). There is
no return from an error (R200). -/

namespace Sys2Proof.Machine

/-- DOUT after a response: its data when it carries some, else as before (R17, R60). -/
def doutAfter : Response → Option BV → Option BV
  | .ok (some v), _ => some v
  | .ok none, old => old
  | .error _, old => old

/-- `respond` (R196): issue the one response of the command, set the sticky flag of an error code, write
DOUT when there is data, and leave `SEQ = Idle`. -/
def respond (a : Response) (s : State) : State :=
  { s with
    rsp := some a
    errmask := stickyAfter a s.errmask
    dout := doutAfter a s.dout
    seq := .idle }

/-- The transients hold unspecified contents once `SEQ` becomes `Idle`; R21 lets a model hold `none`. -/
def dropTransients (s : State) : State :=
  { s with l := none, r := none, c := none, d := none, blk := none, keyin := none, dirf := none }

/-- The response that ends a command which used the sequencer: the transients are dropped (R21). -/
def conclude (a : Response) (s : State) : State := respond a (dropTransients s)

/-- `raise <Error>` in a command that completes in the decode step (R197, R59): respond, nothing saved, no
mode changed, nothing else written. -/
def raiseErr (e : Err) (s : State) : Result := .next (respond (.error e) s)

/-- `raise <Error>` in a command that uses the sequencer (R197). -/
def abandon (e : Err) (s : State) : Result := .next (conclude (.error e) s)

/-- The outcome where a datapath operation gives no value: its error is the command's response, or the
machine is stuck. -/
def stopWith (s : State) : Stop → Result
  | .raise e => abandon e s
  | .stuck f => .fault f

/-- The table-set check of decode (R59, R202): with `TSERR = 1` the command answers MalformedTableSet. -/
def whenTablesValid (s : State) (go : Result) : Result :=
  if tserrBit s then raiseErr .malformedTableSet s else go

end Sys2Proof.Machine
end

