-- ==== Sys2Proof/Machine/RoundFunction.lean ====
section
/-! DEFINITION. The round function `F` of 43_roundfunction.md, stage by stage (R140 to R148). -/

namespace Sys2Proof.Machine

/-- Stage (c), partition (R143): `boxCount` equal chunks; BlockSizeMismatch when the width does not divide
evenly, `boxCount = 0` included. -/
def partitionChunks (T : TableSet) (mixed : BV) : Res (List BV) :=
  if boxCount T = 0 ∨ mixed.length % boxCount T ≠ 0 then .error (.raise .blockSizeMismatch)
  else .ok (chunksOf (mixed.length / boxCount T) (boxCount T) mixed)

/-- The row address of a chunk (R144): first and last bit, the first the more significant. -/
def rowOf (chunk : BV) : Nat := 2 * (bit chunk 1).toNat + (bit chunk chunk.length).toNat

/-- The column address of a chunk (R144): the value of positions `2 .. w−1`. -/
def columnOf (chunk : BV) : Nat := val ((chunk.drop 1).take (chunk.length - 2))

/-- Stage (d), one box (R144): address, table read without any wrapping (R148), and the entry written as
`sboxOutBits` bits. -/
def sboxLookup (outBits : Nat) (box : List (List Nat)) (chunk : BV) : Res BV :=
  if chunk.length < 2 then .error (.stuck .chunkTooNarrow)
  else match box[rowOf chunk]? with
    | none => .error (.stuck .tableReadOutside)
    | some row => match row[columnOf chunk]? with
      | none => .error (.stuck .tableReadOutside)
      | some x => if x < 2 ^ outBits then .ok (bv outBits x) else .error (.stuck .entryTooWide)

/-- Stages (d) and (e): chunk `j` through box `j`, the outputs concatenated in chunk order (R144, R145). -/
def substitute (outBits : Nat) : List (List (List Nat)) → List BV → Res BV
  | box :: boxes, chunk :: chunks => do
    let out ← sboxLookup outBits box chunk
    let rest ← substitute outBits boxes chunks
    pure (concat out rest)
  | _, _ => pure []

/-- Stage (f) (R146): the output permutation, and the width check OutputWidthMismatch. -/
def outputStage (T : TableSet) (sout : BV) : Res BV := do
  let result ← permute sout T.outputPermutation
  if result.length ≠ T.halfBits then .error (.raise .outputWidthMismatch) else pure result

/-- `F(half, roundKey, T)` (R140): expansion (R141), key mixing (R142), partition (R143), substitution
(R144), concatenation (R145), output permutation (R146). -/
def roundFunction (T : TableSet) (half roundKey : BV) : Res BV := do
  let expanded ← permute half T.expansionTable
  let mixed ← xorBits expanded roundKey
  let chunks ← partitionChunks T mixed
  let sout ← substitute T.sboxOutBits T.substitutionBoxes chunks
  outputStage T sout

end Sys2Proof.Machine
end

