-- ==== Sys2Proof/Machine/CipherEngine.lean ====
section
/-! DEFINITION. `transform` (44_cipherengine.md R160) and the commands ENC (R161) and DEC (R162). -/

namespace Sys2Proof.Machine

/-- `(L(0), R(0))`: the block through the initial permutation, split in two (R160, Initial). -/
def initialSplit (T : TableSet) (block : BV) : Res (BV × BV) := do
  let p ← permute block T.initialPermutation
  split p T.halfBits

/-- One Feistel round (R160, R164): `L` takes the old right half, `R` absorbs the XOR. -/
def feistelRound (T : TableSet) (key : BV) (l r : BV) : Res (BV × BV) := do
  let f ← roundFunction T r key
  let x ← xorBits l f
  pure (r, x)

/-- The rounds of R160, one per key, in the order given. -/
def feistelRounds (T : TableSet) : List BV → BV → BV → Res (BV × BV)
  | [], l, r => pure (l, r)
  | k :: ks, l, r => do
    let (l', r') ← feistelRound T k l r
    feistelRounds T ks l' r'

/-- `transform(block, roundKeys, T)` (R160): the length check first; right half first at the end. -/
def transform (T : TableSet) (block : BV) (roundKeys : List BV) : Res BV :=
  if block.length ≠ T.blockBits then .error (.raise .invalidBlockLength)
  else do
    let (l0, r0) ← initialSplit T block
    let (l, r) ← feistelRounds T roundKeys l0 r0
    permute (concat r l) T.finalPermutation

/-- The body ENC and DEC share (R161, R162): length check, key-presence check, transform with the stored
keys in the order `order` puts them. -/
def transformCommand (order : List BV → List BV) (s : State) : Result :=
  if s.operand.length ≠ s.tables.blockBits then abandon .invalidBlockLength s
  else match storedKeys s with
    | none => abandon .roundKeyMissing s
    | some keys => match transform s.tables s.operand (order keys) with
      | .ok out => .next (conclude (.ok (some out)) s)
      | .error x => stopWith s x

/-- ENC (R161): round keys in ascending order. -/
def execEnc (s : State) : Result := whenTablesValid s (transformCommand (fun keys => keys) s)

/-- DEC (R162): the identical transform, round keys in descending order. -/
def execDec (s : State) : Result := whenTablesValid s (transformCommand List.reverse s)

end Sys2Proof.Machine
end

