-- ==== Sys2Proof/Machine/Control.lean ====
section
/-! DEFINITION. The control commands NOP (45_control.md R180) and CLRERR (R181). -/

namespace Sys2Proof.Machine

/-- NOP (R180): respond OK, before the table-set check; no state and no flag is written. -/
def execNop (s : State) : Result := .next (respond (.ok none) s)

/-- CLRERR (R181): `ERRMASK <- 0x0000`; TSERR, TSVIOL, RK and DOUT are kept. -/
def execClrerr (s : State) : Result :=
  whenTablesValid s (.next (respond (.ok none) { s with errmask := 0#16 }))

end Sys2Proof.Machine
end

