-- ==== Sys2Proof/Machine/KeySchedule.lean ====
section
/-! DEFINITION. The key schedule of 42_keyschedule.md (R120, R121) and the three commands that touch the
round-key store: KEYLOAD (R122), RKRD (R125), RKWR (R126). -/

namespace Sys2Proof.Machine

/-- `TabRead(shift, r)`, the rotation amount of round `r` (R124). -/
def shiftAmount (T : TableSet) (r : Nat) : Res Nat :=
  match tabRead T.shiftSchedule r with
  | some n => .ok n
  | none => .error (.stuck .tableReadOutside)

/-- One round of R120: both halves rotated left by the round's amount, independently, and the round key
selected from their concatenation. -/
def scheduleRound (T : TableSet) (r : Nat) (c d : BV) : Res (BV × BV × BV) := do
  let n ← shiftAmount T r
  let k ← permute (concat (rotateLeft c n) (rotateLeft d n)) T.keyPermutation2
  pure (rotateLeft c n, rotateLeft d n, k)

/-- The round keys of the rounds listed, each round starting from the halves the one before left
(R120, R121). -/
def scheduleRounds (T : TableSet) : List Nat → BV → BV → Res (List BV)
  | [], _, _ => pure []
  | r :: rs, c, d => do
    let (c', d', k) ← scheduleRound T r c d
    let rest ← scheduleRounds T rs c' d'
    pure (k :: rest)

/-- The halves `(C(0), D(0))` of a master key of the right length (R120). -/
def initialHalves (T : TableSet) (masterKey : BV) : Res (BV × BV) := do
  let cd ← permute masterKey T.keyPermutation1
  split cd T.leftHalfBits

/-- `deriveRoundKeys(masterKey, T)` (R120): the length check first, then rounds `1..roundCount`. -/
def deriveRoundKeys (T : TableSet) (masterKey : BV) : Res (List BV) :=
  if masterKey.length ≠ T.keyBits then .error (.raise .invalidKeyLength)
  else do
    let (c, d) ← initialHalves T masterKey
    scheduleRounds T (List.range' 1 T.roundCount) c d

/-- KEYLOAD (R122, closed form): derive all round keys from the operand and store them. -/
def execKeyload (s : State) : Result :=
  whenTablesValid s <|
    match deriveRoundKeys s.tables s.operand with
    | .ok keys => .next (conclude (.ok none) { s with rk := keys.map some })
    | .error x => stopWith s x

/-- RKRD idx (R125): read one round key. -/
def execRkrd (idx : Nat) (s : State) : Result :=
  whenTablesValid s <|
    if indexInRange s idx then
      match rkRead s idx with
      | some k => .next (respond (.ok (some k)) s)
      | none => raiseErr .roundKeyMissing s
    else raiseErr .badRoundIndex s

/-- RKWR idx (R126): write one round key directly. -/
def execRkwr (idx : Nat) (s : State) : Result :=
  whenTablesValid s <|
    if indexInRange s idx then
      if s.operand.length = s.tables.roundKeyBits then
        .next (respond (.ok none) (rkWrite s idx s.operand))
      else raiseErr .lengthMismatch s
    else raiseErr .badRoundIndex s

end Sys2Proof.Machine
end

