-- ==== Sys2Proof/Machine/Dispatch.lean ====
section
/-! DEFINITION. One arm per command: the function `exec` of 30_encoding.md R53, a whole command from an
idle engine to its response. -/

namespace Sys2Proof.Machine

def exec (i : Instr) (s : State) : Host.Outcome State Fault Refusal :=
  match i with
  | .nop => Sys2Proof.Machine.execNop s
  | .keyload => Sys2Proof.Machine.execKeyload s
  | .rkrd idx => Sys2Proof.Machine.execRkrd idx s
  | .rkwr idx => Sys2Proof.Machine.execRkwr idx s
  | .enc => Sys2Proof.Machine.execEnc s
  | .dec => Sys2Proof.Machine.execDec s
  | .clrerr => Sys2Proof.Machine.execClrerr s

end Sys2Proof.Machine
end

