-- ==== Sys2Proof/Machine/Sequencer.lean ====
section
/-! DEFINITION. The sequencer (10_state.md R15): its micro-steps (42_keyschedule.md R123, R124,
44_cipherengine.md R163 to R166), how a command is accepted (30_encoding.md R51, R59), and what the engine
does with the lines it looks at (70_reset_and_hazards.md R220, R222). -/

namespace Sys2Proof.Machine

/-! ### Micro-steps -/

/-- A register a micro-step reads holds a value (R11). -/
def present {α : Type} : Option α → Res α
  | some a => .ok a
  | none => .error (.stuck .emptyRegister)

/-- A micro-step's outcome from the state it computes. -/
def settle (s : State) : Res State → Result
  | .ok t => .next t
  | .error x => stopWith s x

/-- Micro-step `KsInit` (R123). -/
def stepKsInit (s : State) : Result :=
  settle s do
    let k ← present s.keyin
    if k.length ≠ s.tables.keyBits then .error (.raise .invalidKeyLength)
    else do
      let (c, d) ← initialHalves s.tables k
      pure { s with c := some c, d := some d, seq := .ksRound 1 }

/-- Micro-step `KsRound(r)` (R124); the last one responds. -/
def stepKsRound (r : Nat) (s : State) : Result :=
  if indexInRange s r then
    settle s do
      let c ← present s.c
      let d ← present s.d
      let (c', d', k) ← scheduleRound s.tables r c d
      let t := rkWrite { s with c := some c', d := some d' } r k
      if r < s.tables.roundCount then pure { t with seq := .ksRound (r + 1) }
      else pure (conclude (.ok none) t)
  else .fault .roundOutOfRange

/-- Micro-step `Initial` (R163): the length check, then the key-presence check, then the split. -/
def stepInitial (s : State) : Result :=
  settle s do
    let b ← present s.blk
    if b.length ≠ s.tables.blockBits then .error (.raise .invalidBlockLength)
    else if (storedKeys s).isNone then .error (.raise .roundKeyMissing)
    else do
      let (l, r) ← initialSplit s.tables b
      pure { s with l := some l, r := some r, seq := .roundExecuting 1 }

/-- The store entry round `r` uses: `RK[r]` for ENC, `RK[roundCount + 1 − r]` for DEC (R164). -/
def keyIndex (s : State) (dec : Bool) (r : Nat) : Nat := if dec then s.tables.roundCount + 1 - r else r

/-- Micro-step `RoundExecuting(r)` (R164). -/
def stepRound (r : Nat) (s : State) : Result :=
  if indexInRange s r then
    settle s do
      let dec ← present s.dirf
      let k ← present (rkRead s (keyIndex s dec r))
      let lOld ← present s.l
      let rOld ← present s.r
      let (lNew, rNew) ← feistelRound s.tables k lOld rOld
      pure { s with
        l := some lNew
        r := some rNew
        seq := if r < s.tables.roundCount then .roundExecuting (r + 1) else .swapped }
  else .fault .roundOutOfRange

/-- Micro-step `Swapped` (R165): right half first. -/
def stepSwapped (s : State) : Result :=
  settle s do
    let l ← present s.l
    let r ← present s.r
    pure { s with blk := some (concat r l), seq := .final }

/-- Micro-step `Final` (R166): the final permutation is the response. -/
def stepFinal (s : State) : Result :=
  settle s do
    let b ← present s.blk
    let out ← permute b s.tables.finalPermutation
    pure (conclude (.ok (some out)) s)

/-- One micro-step: the one `SEQ` enables (R167). At `Idle` none is enabled and nothing changes. -/
def microStep (s : State) : Result :=
  match s.seq with
  | .idle => .next s
  | .ksInit => stepKsInit s
  | .ksRound r => stepKsRound r s
  | .initial => stepInitial s
  | .roundExecuting r => stepRound r s
  | .swapped => stepSwapped s
  | .final => stepFinal s

/-- `n` micro-steps, stopping at a fault. -/
def microRun : Nat → State → Result
  | 0, s => .next s
  | n + 1, s => match microStep s with
    | .next t => microRun n t
    | .fault f => .fault f
    | .refused q => .refused q

/-! ### Acceptance -/

/-- No response is issued in this step: `rsp_valid = 0` (R52). -/
def noResponse (s : State) : State := { s with rsp := none }

/-- The decode step of R59: the sequencer commands latch their operands (R14) and start the sequencer;
the other four complete here. -/
def startCommand (i : Instr) (s : State) : Result :=
  match i with
  | .nop => exec .nop s
  | .keyload =>
    whenTablesValid s (.next { noResponse s with keyin := some s.operand, seq := .ksInit })
  | .rkrd idx => exec (.rkrd idx) s
  | .rkwr idx => exec (.rkwr idx) s
  | .enc =>
    whenTablesValid s (.next { noResponse s with blk := some s.operand, dirf := some false, seq := .initial })
  | .dec =>
    whenTablesValid s (.next { noResponse s with blk := some s.operand, dirf := some true, seq := .initial })
  | .clrerr => exec .clrerr s

/-- An idle engine accepts the command on the lines (R51): an illegal word answers IllegalCommand (R58); a
legal one runs to its response in this step (R53), or, when the host watches, only starts (R59). -/
def acceptCommand (s : State) : Result :=
  match decode s.line.cmdWord with
  | .error _ => raiseErr .illegalCommand s
  | .ok i => if s.line.watch then startCommand i s else exec i s

/-- What the engine does with the lines it looks at: `rst` first, whatever is in progress (R220, R222);
busy, one micro-step, an offered command having no effect (R51); idle, an offered command is accepted. -/
def actOnLines (s : State) : Result :=
  if s.line.rst then .next (State.resetOf s.tables s.inputs s.draws)
  else if s.seq = .idle then
    if s.line.cmdValid then acceptCommand s else .next (noResponse s)
  else microStep (noResponse s)

/-- The lines just looked at are gone, and the next look draws fresh free values. -/
def nextLook (s : State) : State := { s with inputs := s.inputs.tail, draws := s.draws + 1 }

/-- `nextLook` on the state a step gives. -/
def afterLook : Result → Result
  | .next t => .next (nextLook t)
  | .fault f => .fault f
  | .refused q => .refused q

/-- The lines with the command word `w` offered to an engine that listens, operand lines kept. -/
def offering (w : CmdWord) (p : PortIn) : PortIn :=
  { p with rst := false, cmdValid := true, cmdWord := w, watch := false }

end Sys2Proof.Machine
end

