-- ==== Sys2Proof/Machine/Step.lean ====
section
/-! DEFINITION. One step of the machine, and how a command word is put where the next step takes it. -/

namespace Sys2Proof.Machine

/-- One step: the engine acts on the lines as the host drives them now, and the host moves on. -/
def step (s : State) : Host.Outcome State Fault Refusal := afterLook (actOnLines s)

/-- `s` with the command word of an opcode-table row on its command lines, the engine idle and listening,
so that the next step accepts exactly it (log entry 4). -/
def State.withFetchWord (s : State) (nbits w : Nat) : State :=
  { s with
    seq := .idle
    inputs := offering (BitVec.ofNat 16 (w % 2 ^ nbits)) s.line :: s.inputs.tail }

end Sys2Proof.Machine
end

