-- ==== Sys2Proof/Machine/TextForms.lean ====
section
/-! DEFINITION. The text conversions of 40_bitvector.md R78 to R81. They are host-side functions: no command
performs them, and their ParseError is never a response of the engine (R190). A character string is a list
of characters. -/

namespace Sys2Proof.Machine

/-- The characters of a binary string, each `'0'` or `'1'` (R78). -/
def binaryBits : List Char → Except Err BV
  | [] => .ok []
  | ch :: rest =>
    if ch = '0' then (binaryBits rest).map (false :: ·)
    else if ch = '1' then (binaryBits rest).map (true :: ·)
    else .error .parseError

/-- `fromBinaryString(s, N)` (R78): exact length, then digit by digit, position 1 first. -/
def fromBinaryString (s : List Char) (n : Nat) : Except Err BV :=
  if s.length ≠ n then .error .parseError else binaryBits s

/-- `toBinaryString(v)` (R79). -/
def toBinaryString (v : BV) : List Char := v.map fun b => if b then '1' else '0'

/-- How many zero bits pad `n` to a multiple of 4 (R80). -/
def hexPad (n : Nat) : Nat := (4 - n % 4) % 4

/-- The upper-case hexadecimal digit of a value below 16 (R80, D22). -/
def hexDigit (x : Nat) : Char := if x < 10 then Char.ofNat (48 + x) else Char.ofNat (55 + x)

/-- The value of a hexadecimal digit, either letter case (R81). -/
def digitValue (ch : Char) : Option Nat :=
  if 48 ≤ ch.toNat ∧ ch.toNat ≤ 57 then some (ch.toNat - 48)
  else if 65 ≤ ch.toNat ∧ ch.toNat ≤ 70 then some (ch.toNat - 55)
  else if 97 ≤ ch.toNat ∧ ch.toNat ≤ 102 then some (ch.toNat - 87)
  else none

/-- `toHex(v)` (R80): zero-pad on the most significant side, one digit per 4 bits. -/
def toHex (v : BV) : List Char :=
  (chunksOf 4 ((hexPad v.length + v.length) / 4) (zeros (hexPad v.length) ++ v)).map fun q => hexDigit (val q)

/-- The bits of a string of hexadecimal digits, 4 a digit (R81). -/
def hexBits : List Char → Except Err BV
  | [] => .ok []
  | ch :: rest => match digitValue ch with
    | none => .error .parseError
    | some x => (hexBits rest).map (bv 4 x ++ ·)

/-- `fromHex(s, N)` (R81): exact length, valid digits, zero padding. -/
def fromHex (s : List Char) (n : Nat) : Except Err BV :=
  if 4 * s.length ≠ n + hexPad n then .error .parseError
  else match hexBits s with
    | .error e => .error e
    | .ok w => if val (w.take (hexPad n)) ≠ 0 then .error .parseError else .ok ((w.drop (hexPad n)).take n)

end Sys2Proof.Machine
end

