-- ==== Sys2Proof/Machine/HostMoves.lean ====
section
/-! DEFINITION. What the host puts on the lines: a command and its operand (30_encoding.md R51, R61), reset
(70_reset_and_hazards.md R220), and the pseudo-commands, which are host scripts and which no decoder reads
(30_encoding.md R62). -/

namespace Sys2Proof.Machine

/-- The lines of `issue(word, v)` (R51, R61): the command's word, `din_len = len(v)`, and `v` right-aligned
on `din` (R33). -/
def issue (i : Instr) (v : BV) : PortIn where
  rst := false
  cmdValid := true
  cmdWord := encode i
  dinLen := BitVec.ofNat 8 v.length
  din := val v
  watch := false

/-- The lines on which the host watches the command it issues, micro-step by micro-step (log entry 5). -/
def issueWatched (i : Instr) (v : BV) : PortIn := { issue i v with watch := true }

/-- The lines of a host that asserts reset (R220). -/
def resetLine : PortIn := { quietLine with rst := true }

/-- `RKRD 1, …, RKRD n`. -/
def readAllKeys (n : Nat) : List PortIn := (List.range' 1 n).map fun idx => issue (.rkrd idx) []

/-- `RKWR i, k1; RKWR i+1, k2; …`. -/
def writeKeysFrom : Nat → List BV → List PortIn
  | _, [] => []
  | i, k :: ks => issue (.rkwr i) k :: writeKeysFrom (i + 1) ks

/-- `DERIVE k` (R62). -/
def deriveScript (T : TableSet) (k : BV) : List PortIn := issue .keyload k :: readAllKeys T.roundCount

/-- `TRANSFORM b, (k1, …, kn)` (R62). -/
def transformScript (b : BV) (ks : List BV) : List PortIn := writeKeysFrom 1 ks ++ [issue .enc b]

/-- `ENCRYPT k, p` (R62). -/
def encryptScript (k p : BV) : List PortIn := [issue .keyload k, issue .enc p]

/-- `DECRYPT k, c` (R62). -/
def decryptScript (k c : BV) : List PortIn := [issue .keyload k, issue .dec c]

/-! ### The textual form of commands and responses (R61) -/

/-- The mnemonic of a command (R56). -/
def mnemonic : Instr → String
  | .nop => "NOP"
  | .keyload => "KEYLOAD"
  | .rkrd _ => "RKRD"
  | .rkwr _ => "RKWR"
  | .enc => "ENC"
  | .dec => "DEC"
  | .clrerr => "CLRERR"

/-- The double quote character. -/
def quoteChar : Char := Char.ofNat 34

/-- A vector literal in its binary form, the letter b and the quoted binary string (R61, R78). -/
def vectorText (v : BV) : List Char := 'b' :: quoteChar :: (toBinaryString v ++ [quoteChar])

/-- The operands of a command as R61 writes them: `<idx>` in decimal, `<vector>` as a literal. -/
def operandText (v : BV) : Instr → List Char
  | .nop => []
  | .keyload => ' ' :: vectorText v
  | .rkrd idx => ' ' :: Nat.toDigits 10 idx
  | .rkwr idx => ' ' :: (Nat.toDigits 10 idx ++ [',', ' '] ++ vectorText v)
  | .enc => ' ' :: vectorText v
  | .dec => ' ' :: vectorText v
  | .clrerr => []

/-- A command line (R61). -/
def commandText (i : Instr) (v : BV) : List Char := (mnemonic i).toList ++ operandText v i

/-- The name of an error (R190). -/
def errName : Err → String
  | .parseError => "ParseError"
  | .invalidBlockLength => "InvalidBlockLength"
  | .invalidKeyLength => "InvalidKeyLength"
  | .malformedTableSet => "MalformedTableSet"
  | .lengthMismatch => "LengthMismatch"
  | .blockSizeMismatch => "BlockSizeMismatch"
  | .outputWidthMismatch => "OutputWidthMismatch"
  | .indexOutOfRange => "IndexOutOfRange"
  | .invalidWidth => "InvalidWidth"
  | .illegalCommand => "IllegalCommand"
  | .roundKeyMissing => "RoundKeyMissing"
  | .badRoundIndex => "BadRoundIndex"

/-- A response as R61 writes it. -/
def responseText : Response → List Char
  | .ok none => "-> OK".toList
  | .ok (some v) => "-> OK ".toList ++ vectorText v
  | .error e => "-> ".toList ++ (errName e).toList

end Sys2Proof.Machine
end

