-- ==== Sys2Proof/Machine/Ports.lean ====
section
/-! DEFINITION. The output ports of 30_encoding.md R50, with a free value wherever the spec leaves a port
unspecified (log entry 7). Looking at a port changes nothing (20_memory.md R36). -/

namespace Sys2Proof.Machine

/-- The output ports of R50. `dout` is the port word read as a number. -/
structure PortOut where
  cmdReady : Bool
  rspValid : Bool
  rspCode : BitVec 4
  rspHasData : Bool
  doutLen : BitVec 8
  dout : Nat
  status : BitVec 8
  errmask : BitVec 16
  tsviol : BitVec 8
deriving DecidableEq, Repr

/-- A response carries data (R60). -/
def hasData : Response → Bool
  | .ok (some _) => true
  | .ok none => false
  | .error _ => false

/-- An unspecified `dout` word: any `DW`-bit word. -/
def freeDoutWord (s : State) : Nat := Config.freeDout s.draws % 2 ^ dataWidth s.tables

/-- `dout_len`: the length of DOUT, 0 when it holds none (R50); unspecified while busy (R229). -/
def doutLenPort (s : State) : BitVec 8 :=
  if busyBit s then Config.freeDoutLen s.draws
  else match s.dout with
    | some v => BitVec.ofNat 8 v.length
    | none => 0#8

/-- `dout`: DOUT right-aligned, so the port word is `val(DOUT)` and the bits above `dout_len` are 0 (R33);
unspecified while busy (R229) and while DOUT holds none (R60). -/
def doutPort (s : State) : Nat :=
  if busyBit s then freeDoutWord s
  else match s.dout with
    | some v => val v
    | none => freeDoutWord s

/-- `errmask` (R19); unspecified while busy (R229). -/
def errmaskPort (s : State) : BitVec 16 := if busyBit s then Config.freeErrmask s.draws else s.errmask

/-- `status` (R18); while busy only BUSY, TSERR and the reserved zeros are specified (R229). -/
def statusPort (s : State) : BitVec 8 :=
  if busyBit s then
    statusWord true (Config.freeStatusBit s.draws 1) (tserrBit s) (Config.freeStatusBit s.draws 3)
      (Config.freeStatusBit s.draws 4)
  else s.status

/-- `rsp_valid`: a response was issued in the step just taken, and `rst` is not held (R52, R220). -/
def rspValidPort (s : State) : Bool := s.rsp.isSome && !s.line.rst

/-- `rsp_code`, valid when `rsp_valid = 1` (R50). -/
def rspCodePort (s : State) : BitVec 4 :=
  match s.rsp, rspValidPort s with
  | some a, true => responseCode a
  | _, _ => Config.freeRspCode s.draws

/-- `rsp_has_data`, valid when `rsp_valid = 1` (R50). -/
def rspHasDataPort (s : State) : Bool :=
  match s.rsp, rspValidPort s with
  | some a, true => hasData a
  | _, _ => Config.freeRspHasData s.draws

/-- `cmd_ready`: `SEQ = Idle` and `rst = 0` (R50). -/
def cmdReadyPort (s : State) : Bool := !(busyBit s) && !s.line.rst

/-- All output ports (R50). -/
def State.ports (s : State) : PortOut where
  cmdReady := cmdReadyPort s
  rspValid := rspValidPort s
  rspCode := rspCodePort s
  rspHasData := rspHasDataPort s
  doutLen := doutLenPort s
  dout := doutPort s
  status := statusPort s
  errmask := errmaskPort s
  tsviol := s.tsviol

end Sys2Proof.Machine
end

