-- ==== Sys2Proof/Safety.lean ====
section
/-! DEFINITION. What counts as a safe state, in the terms the statements use: the invariant that holds at
reset and that every step keeps. -/

namespace Sys2Proof.Machine

/-- A table set is valid when `Validate(T) = 0` (R93). -/
abbrev ValidTables (T : TableSet) : Prop := validate T = 0

/-- A sequence of round keys that fits a table set: one per round, each `roundKeyBits` wide (R16, R168). -/
def KeysFit (T : TableSet) (ks : List BV) : Prop :=
  ks.length = T.roundCount ∧ ∀ k ∈ ks, k.length = T.roundKeyBits

/-- `t` is `s` after a command that used the sequencer was answered with `a` (R196): beside the response,
`SEQ = Idle` and the transients, of which R21 says nothing, only `rk`, `dout` and `errmask` can differ, and
they are as given. -/
def Answered (s t : State) (a : Response) (rk : List (Option BV)) (dout : Option BV)
    (errmask : BitVec 16) : Prop :=
  t.rsp = some a ∧ t.seq = .idle ∧ t.rk = rk ∧ t.dout = dout ∧ t.errmask = errmask ∧
    t.tsviol = s.tsviol ∧ t.tables = s.tables ∧ t.inputs = s.inputs ∧ t.draws = s.draws

/-- `tab` has exactly `count` entries, each in `1..n`, none twice: what R94 to R97 and R101 ask of the
permutation and selection tables. -/
def Selects (tab : List Nat) (count n : Nat) : Prop :=
  tab.length = count ∧ (∀ t ∈ tab, 1 ≤ t ∧ t ≤ n) ∧ tab.Nodup

/-- The constraints V1 to V14 by number, in the words of R94 to R107. -/
def Constraint (T : TableSet) : Nat → Prop
  | 1 => Selects T.initialPermutation T.blockBits T.blockBits
  | 2 => Selects T.finalPermutation T.blockBits T.blockBits
  | 3 => Selects T.keyPermutation1 (T.leftHalfBits + T.rightHalfBits) T.keyBits
  | 4 => Selects T.keyPermutation2 T.roundKeyBits (T.leftHalfBits + T.rightHalfBits)
  | 5 => T.shiftSchedule.length = T.roundCount
  | 6 => T.expansionTable.length = T.expandedBits ∧ ∀ t ∈ T.expansionTable, 1 ≤ t ∧ t ≤ T.halfBits
  | 7 => 1 ≤ T.substitutionBoxes.length ∧ T.substitutionBoxes.length ∣ T.expandedBits ∧
      2 ≤ T.expandedBits / T.substitutionBoxes.length ∧
      ∀ box ∈ T.substitutionBoxes, box.length = 4 ∧
        ∀ row ∈ box, row.length = 2 ^ (T.expandedBits / T.substitutionBoxes.length - 2)
  | 8 => Selects T.outputPermutation T.halfBits T.halfBits
  | 9 => 1 ≤ T.halfBits ∧ T.blockBits = 2 * T.halfBits
  | 10 => T.roundKeyBits = T.expandedBits
  | 11 => 1 ≤ T.sboxOutBits ∧ T.substitutionBoxes.length * T.sboxOutBits = T.halfBits ∧
      ∀ box ∈ T.substitutionBoxes, ∀ row ∈ box, ∀ x ∈ row, x < 2 ^ T.sboxOutBits
  | 12 => 1 ≤ T.roundCount ∧ 1 ≤ T.leftHalfBits ∧ 1 ≤ T.rightHalfBits
  | 13 => ∀ i, 1 ≤ i → i ≤ T.blockBits →
      ∃ t, T.finalPermutation[i - 1]? = some t ∧ 1 ≤ t ∧ T.initialPermutation[t - 1]? = some i
  | 14 => T.blockBits ≤ 255 ∧ T.keyBits ≤ 255 ∧ T.roundKeyBits ≤ 255 ∧ T.roundCount ≤ 255
  | _ => True

/-- A register holds a vector of the given width. -/
def holdsWidth (o : Option BV) (n : Nat) : Prop := ∃ v, o = some v ∧ v.length = n

/-- Every entry of the round-key store holds a value. -/
def storeComplete (s : State) : Prop := ∀ o ∈ s.rk, o ≠ none

/-- The transients hold nothing, which is how this model renders 'unspecified' at `SEQ = Idle` (R21). -/
def transientsEmpty (s : State) : Prop :=
  s.l = none ∧ s.r = none ∧ s.c = none ∧ s.d = none ∧ s.blk = none ∧ s.keyin = none ∧ s.dirf = none

/-- What each sequencer state has in place: the registers its micro-step reads (R11) and a round in range
(R15). -/
def seqInv (s : State) : Prop :=
  match s.seq with
  | .idle => transientsEmpty s
  | .ksInit => s.keyin ≠ none
  | .ksRound r => 1 ≤ r ∧ r ≤ s.tables.roundCount ∧ holdsWidth s.c s.tables.leftHalfBits ∧
      holdsWidth s.d s.tables.rightHalfBits
  | .initial => s.blk ≠ none ∧ s.dirf ≠ none
  | .roundExecuting r => 1 ≤ r ∧ r ≤ s.tables.roundCount ∧ storeComplete s ∧ s.dirf ≠ none ∧
      holdsWidth s.l s.tables.halfBits ∧ holdsWidth s.r s.tables.halfBits
  | .swapped => holdsWidth s.l s.tables.halfBits ∧ holdsWidth s.r s.tables.halfBits
  | .final => holdsWidth s.blk s.tables.blockBits

/-- The codes of the errors the engine never issues (R192, R190, U7), as bits of ERRMASK: 0, 1, 6 to 9 and
13 to 15. -/
def neverSetBits : BitVec 16 := 0xE3C3#16

/-- The invariant of one engine instance. -/
structure State.Inv (s : State) : Prop where
  /-- TSVIOL holds `Validate(T)` (R20). -/
  tsviol_eq : s.tsviol = BitVec.ofNat 8 (validate s.tables)
  /-- The store has one entry per round (R16). -/
  rk_length : s.rk.length = s.tables.roundCount
  /-- A store entry is `roundKeyBits` wide or holds none (R16). -/
  rk_width : ∀ k, some k ∈ s.rk → k.length = s.tables.roundKeyBits
  /-- DOUT is a block or a round key, or holds none (R17). -/
  dout_width : ∀ v, s.dout = some v → v.length = s.tables.blockBits ∨ v.length = s.tables.roundKeyBits
  /-- ERRMASK shows only codes the engine can issue (R19, R192). -/
  errmask_bits : s.errmask &&& neverSetBits = 0#16
  /-- An instance with a bad table set holds no key and no result and is idle (R202). -/
  bad_tables : ¬ ValidTables s.tables → s.seq = .idle ∧ s.dout = none ∧ ∀ o ∈ s.rk, o = none
  /-- The sequencer's registers are in place. -/
  seq_inv : seqInv s
  /-- A response leaves the engine idle (R52), and its data is in DOUT (R60). -/
  rsp_idle : ∀ a, s.rsp = some a → s.seq = .idle
  rsp_data : ∀ v, s.rsp = some (.ok (some v)) → s.dout = some v

end Sys2Proof.Machine
end

