-- ==== Sys2Proof/Certificates/Slice0/Obligations.lean ====
section
/-! DEFINITION. The statements for the provers, from the spec's numbered rules. Each docstring names the
rules; where a clause is the model's own choice it says so and names the log entry. -/

open Sys2Proof Sys2Proof.Machine

/-! ### Encoding (30_encoding.md) -/

/-- R54, R56, R57, R59: decoding the encoding of any well-formed command gives it back, with its index at
every value the field admits. -/
def Obligations.DecodeOfEncodeIsTheCommand : Prop :=
  ∀ i : Instr, i.wellFormed = true → decode (encode i) = .ok i

/-- R56, R58: a word that decodes is the encoding of exactly the well-formed command it decodes to, so no
two words mean the same command and no bit of a legal word is dropped. -/
def Obligations.LegalWordsAreEncodings : Prop :=
  ∀ (w : CmdWord) (i : Instr), decode w = .ok i → i.wellFormed = true ∧ encode i = w

/-- R58: a word is illegal exactly when its opcode is 0x7 to 0xF, its reserved field is not zero, or it
carries an index on a command without one. -/
def Obligations.IllegalWordsAreTheReservedOnes : Prop :=
  ∀ w : CmdWord,
    (∃ x, decode w = .error x) ↔
      (7 ≤ w.toNat / 4096 ∨ w.toNat / 256 % 16 ≠ 0 ∨
        ((w.toNat / 4096 = 0 ∨ w.toNat / 4096 = 1 ∨ w.toNat / 4096 = 4 ∨ w.toNat / 4096 = 5 ∨
            w.toNat / 4096 = 6) ∧ w.toNat % 256 ≠ 0))

/-- R56: one word of every command, written out from the `match` column, decodes to it. -/
def Obligations.SampleWordsDecode : Prop :=
  decode 0x0000#16 = .ok .nop ∧ decode 0x1000#16 = .ok .keyload ∧ decode 0x2010#16 = .ok (.rkrd 16) ∧
    decode 0x30FF#16 = .ok (.rkwr 255) ∧ decode 0x4000#16 = .ok .enc ∧ decode 0x5000#16 = .ok .dec ∧
    decode 0x6000#16 = .ok .clrerr

/-! ### The datapath primitives (40_bitvector.md) -/

/-- R71: `permute` gives the vector whose position `i` is position `tab(i)` of the operand, and raises
IndexOutOfRange exactly when an entry falls outside `1..len(v)`. -/
def Obligations.PermuteSelectsPositions : Prop :=
  ∀ (v : BV) (tab : List Nat),
    ((∀ t ∈ tab, 1 ≤ t ∧ t ≤ v.length) →
      ∃ out, permute v tab = .ok out ∧ out.length = tab.length ∧
        ∀ i t, 1 ≤ i → tab[i - 1]? = some t → out[i - 1]? = v[t - 1]?) ∧
    ((∃ t ∈ tab, t < 1 ∨ v.length < t) → permute v tab = .error (.raise .indexOutOfRange))

/-- R72, R73: `split` at `at` gives the first `at` positions and the rest, raises InvalidWidth beyond the
length, and undoes `concat`. -/
def Obligations.SplitUndoesConcat : Prop :=
  (∀ a b : BV, (concat a b).length = a.length + b.length ∧ split (concat a b) a.length = .ok (a, b)) ∧
    (∀ (v : BV) (n : Nat), n ≤ v.length →
      ∃ a b, split v n = .ok (a, b) ∧ a.length = n ∧ b.length = v.length - n ∧ concat a b = v) ∧
    ∀ (v : BV) (n : Nat), v.length < n → split v n = .error (.raise .invalidWidth)

/-- R74: `xor` is bitwise on equal lengths, raises LengthMismatch on unequal ones, and cancels. -/
def Obligations.XorIsBitwiseAndCancels : Prop :=
  (∀ a b : BV, a.length ≠ b.length → xorBits a b = .error (.raise .lengthMismatch)) ∧
    ∀ a b : BV, a.length = b.length →
      ∃ x, xorBits a b = .ok x ∧ x.length = a.length ∧
        (∀ i, 1 ≤ i → i ≤ a.length → bit x i = (bit a i ^^ bit b i)) ∧ xorBits x b = .ok a ∧
        xorBits a a = .ok (zeros a.length) ∧ xorBits a (zeros a.length) = .ok a

/-- R75: position `i` of `rotateLeft(v, n)` is position `((i − 1 + n) mod N) + 1` of `v`, the empty vector
is returned unchanged, and rotations compose by adding their amounts. -/
def Obligations.RotateLeftMovesPositions : Prop :=
  (∀ (v : BV) (n : Nat), (rotateLeft v n).length = v.length ∧
    ∀ i, 1 ≤ i → i ≤ v.length → bit (rotateLeft v n) i = bit v ((i - 1 + n) % v.length + 1)) ∧
    ∀ (v : BV) (a b : Nat), rotateLeft (rotateLeft v a) b = rotateLeft v (a + b)

/-- R76: `val` and `bv` are inverse to each other. -/
def Obligations.ValAndBvAreInverse : Prop :=
  (∀ n x, x < 2 ^ n → val (bv n x) = x ∧ (bv n x).length = n) ∧ ∀ v : BV, bv v.length (val v) = v

/-- R78, R79: character `i` of the binary form is the digit of position `i`, the form is read back, only the
form of a vector is read as that vector, and any other length or character is a ParseError. -/
def Obligations.BinaryStringRoundTrip : Prop :=
  (∀ v : BV, (toBinaryString v).length = v.length ∧
    (∀ i, 1 ≤ i → i ≤ v.length → (toBinaryString v)[i - 1]? = some (if bit v i then '1' else '0')) ∧
    fromBinaryString (toBinaryString v) v.length = .ok v) ∧
    (∀ (s : List Char) (n : Nat) (v : BV), fromBinaryString s n = .ok v →
      v.length = n ∧ toBinaryString v = s) ∧
    (∀ (s : List Char) (n : Nat), s.length ≠ n → fromBinaryString s n = .error .parseError) ∧
    ∀ (s : List Char) (ch : Char), ch ∈ s → ch ≠ '0' → ch ≠ '1' →
      fromBinaryString s s.length = .error .parseError

/-- R80, R81: digit `j` of the hexadecimal form is the upper-case digit of positions `4j−3` to `4j` of the
vector padded with zeros in front, and the form is read back whatever the length of the vector; a wrong length,
a character that is no digit, and digits whose padding bits are not zero are each a ParseError; the two letter
cases are read alike. -/
def Obligations.HexRoundTrip : Prop :=
  (∀ v : BV, 4 * (toHex v).length = v.length + (4 - v.length % 4) % 4 ∧
    (∀ j, 1 ≤ j → j ≤ (toHex v).length →
      (toHex v)[j - 1]? =
        ['0', '1', '2', '3', '4', '5', '6', '7', '8', '9', 'A', 'B', 'C', 'D', 'E', 'F'][
          val (((zeros ((4 - v.length % 4) % 4) ++ v).drop (4 * (j - 1))).take 4)]?) ∧
    fromHex (toHex v) v.length = .ok v) ∧
    (∀ (s : List Char) (n : Nat), 4 * s.length ≠ n + (4 - n % 4) % 4 → fromHex s n = .error .parseError) ∧
    (∀ (s : List Char) (n : Nat) (ch : Char), ch ∈ s →
      ch ∉ ['0', '1', '2', '3', '4', '5', '6', '7', '8', '9', 'A', 'B', 'C', 'D', 'E', 'F',
        'a', 'b', 'c', 'd', 'e', 'f'] → fromHex s n = .error .parseError) ∧
    (∀ (w : BV) (n : Nat), w.length = n + (4 - n % 4) % 4 →
      (val (w.take ((4 - n % 4) % 4)) ≠ 0 → fromHex (toHex w) n = .error .parseError) ∧
      (val (w.take ((4 - n % 4) % 4)) = 0 → fromHex (toHex w) n = .ok (w.drop ((4 - n % 4) % 4)))) ∧
    ∀ (s : List Char) (n : Nat), fromHex (s.map Char.toLower) n = fromHex s n

/-! ### The table set (41_tableset.md) -/

/-- R93 to R107: `Validate(T)` is 0 exactly when V1 to V14 all hold, and otherwise the number of the first
that does not. -/
def Obligations.ValidateReportsFirstViolation : Prop :=
  ∀ T : TableSet, validate T ≤ 14 ∧
    (validate T = 0 ↔ ∀ m, 1 ≤ m → m ≤ 14 → Constraint T m) ∧
    ∀ n, 1 ≤ n → n ≤ 14 → (validate T = n ↔ ¬ Constraint T n ∧ ∀ m, 1 ≤ m → m < n → Constraint T m)

/-- R114, R115, R117: the three table sets the spec writes out pass validation (FULL64's literals are
the spec's own from general knowledge: log entry 2). -/
def Obligations.WrittenTableSetsAreValid : Prop :=
  validate full64 = 0 ∧ validate toy8 = 0 ∧ validate toy8r1 = 0

/-! ### The round function and transform (43_roundfunction.md, 44_cipherengine.md) -/

/-- R144: the row of a chunk of `w ≥ 2` bits is in 0..3 and made of its first and last bits, its column is
below `2^(w−2)` and reads the bits between; the box entry there is emitted most significant bit first. -/
def Obligations.SboxAddressStaysInsideTheBox : Prop :=
  ∀ (first last : Bool) (middle : BV) (outBits x : Nat) (box : List (List Nat)) (row : List Nat),
    box[2 * first.toNat + last.toNat]? = some row → row[val middle]? = some x → x < 2 ^ outBits →
      2 * first.toNat + last.toNat < 4 ∧ val middle < 2 ^ middle.length ∧
        sboxLookup outBits box (first :: (middle ++ [last])) = .ok (bv outBits x)

/-- R140 to R146, R149: for every valid table set and a half of the right width the round function raises
LengthMismatch for a round key of another width, and otherwise raises nothing and is its stages: the half
expanded by `E`, the XOR with the round key, chunk `j` (positions `(j−1)·w + 1` to `j·w`) through box `j` to
`sboxOutBits` bits, the outputs concatenated in chunk order, permuted by `P`, `halfBits` wide. -/
def Obligations.RoundFunctionStagesAndWidth : Prop :=
  ∀ (T : TableSet) (half key : BV), ValidTables T → half.length = T.halfBits →
    (key.length ≠ T.roundKeyBits → roundFunction T half key = .error (.raise .lengthMismatch)) ∧
    (key.length = T.roundKeyBits →
      ∃ (expanded mixed : BV) (outs : List BV) (result : BV),
        permute half T.expansionTable = .ok expanded ∧ expanded.length = T.expandedBits ∧
        xorBits expanded key = .ok mixed ∧ outs.length = T.substitutionBoxes.length ∧
        (∀ j box, 1 ≤ j → T.substitutionBoxes[j - 1]? = some box →
          ∃ o, outs[j - 1]? = some o ∧ o.length = T.sboxOutBits ∧
            sboxLookup T.sboxOutBits box ((mixed.drop ((j - 1) * chunkBits T)).take (chunkBits T)) = .ok o) ∧
        permute outs.flatten T.outputPermutation = .ok result ∧
        roundFunction T half key = .ok result ∧ result.length = T.halfBits)

/-- R170: for every valid table set, block and fitting round keys `transform` raises nothing and its output
is `blockBits` wide. -/
def Obligations.TransformWidth : Prop :=
  ∀ (T : TableSet) (b : BV) (ks : List BV), ValidTables T → b.length = T.blockBits → KeysFit T ks →
    ∃ c, transform T b ks = .ok c ∧ c.length = T.blockBits

/-- R160: a wrong length raises InvalidBlockLength; otherwise the output is `FP` of `R(n) ‖ L(n)`, where
`L(0) ‖ R(0)` is `IP` of the block and round `r` takes `L(r) = R(r−1)`, `R(r) = L(r−1) xor F(R(r−1), k(r))`. -/
def Obligations.TransformIsTheFeistelRecurrence : Prop :=
  ∀ (T : TableSet) (b : BV) (ks : List BV), ValidTables T → KeysFit T ks →
    (b.length ≠ T.blockBits → transform T b ks = .error (.raise .invalidBlockLength)) ∧
    (b.length = T.blockBits →
      ∃ (L R : Nat → BV) (out : BV),
        (L 0).length = T.halfBits ∧ permute b T.initialPermutation = .ok (L 0 ++ R 0) ∧
        (∀ r k, 1 ≤ r → ks[r - 1]? = some k →
          ∃ f, roundFunction T (R (r - 1)) k = .ok f ∧ L r = R (r - 1) ∧ xorBits (L (r - 1)) f = .ok (R r)) ∧
        permute (R T.roundCount ++ L T.roundCount) T.finalPermutation = .ok out ∧
        transform T b ks = .ok out)

/-- R168: transforming back with the round keys reversed gives the block again, for every valid table set,
block and fitting round keys. -/
def Obligations.TransformRoundTrip : Prop :=
  ∀ (T : TableSet) (b : BV) (ks : List BV), ValidTables T → b.length = T.blockBits → KeysFit T ks →
    ∃ c, transform T b ks = .ok c ∧ transform T c ks.reverse = .ok b

/-- Section 2.1 of 95_test_vectors.md: the three known answers of FULL64 (whose literals are the
spec's own from general knowledge: log entry 2). -/
def Obligations.Full64KnownAnswers : Prop :=
  ∀ kpc ∈ [(0x133457799BBCDFF1, 0x0123456789ABCDEF, 0x85E813540F0AB405),
      (0x0101010101010101, 0x0000000000000000, 0x8CA64DE9C1B123A7),
      (0x0123456789ABCDEF, 0x4E6F772069732074, 0x3FA40E8A984D4815)],
    ∃ ks, deriveRoundKeys full64 (bv 64 kpc.1) = .ok ks ∧
      transform full64 (bv 64 kpc.2.1) ks = .ok (bv 64 kpc.2.2)

/-! ### The key schedule (42_keyschedule.md) -/

/-- R120, R121: for a valid table set a master key of the right length gives `roundCount` keys of
`roundKeyBits`, key `r` selected by PC2 from the round-0 halves rotated by the sum of the first `r` amounts;
any other length raises InvalidKeyLength. -/
def Obligations.RoundKeysComeFromCumulativeRotation : Prop :=
  ∀ (T : TableSet) (k : BV), ValidTables T →
    (k.length ≠ T.keyBits → deriveRoundKeys T k = .error (.raise .invalidKeyLength)) ∧
    (k.length = T.keyBits →
      ∃ (c d : BV) (ks : List BV), permute k T.keyPermutation1 = .ok (c ++ d) ∧
        c.length = T.leftHalfBits ∧ d.length = T.rightHalfBits ∧ deriveRoundKeys T k = .ok ks ∧
        KeysFit T ks ∧
        ∀ r, 1 ≤ r → r ≤ T.roundCount →
          ∃ rk, ks[r - 1]? = some rk ∧
            permute (rotateLeft c (T.shiftSchedule.take r).sum ++ rotateLeft d (T.shiftSchedule.take r).sum)
              T.keyPermutation2 = .ok rk)

/-- R128: a master-key position PC1 leaves out has no influence on any round key, and the key schedule is
linear: the round keys of the XOR of two master keys are the XORs of their round keys, so flipping a bit
flips exactly the round-key bits it is routed to. -/
def Obligations.KeyBitsAreRoutedLinearly : Prop :=
  (∀ (T : TableSet) (k k' : BV), k.length = k'.length →
    (∀ p ∈ T.keyPermutation1, bit k p = bit k' p) → deriveRoundKeys T k = deriveRoundKeys T k') ∧
    ∀ (T : TableSet) (k m km : BV) (ks ms : List BV), ValidTables T → xorBits k m = .ok km →
      deriveRoundKeys T k = .ok ks → deriveRoundKeys T m = .ok ms →
        ∃ kms : List BV, deriveRoundKeys T km = .ok kms ∧ kms.length = ks.length ∧
          ∀ (i : Nat) (a b : BV), ks[i]? = some a → ms[i]? = some b →
            ∃ x, xorBits a b = .ok x ∧ kms[i]? = some x

/-! ### Flags and responses (10_state.md, 60_exceptions.md) -/

/-- R190: the numeric code of every error, and the code of OK. -/
def Obligations.ResponseCodes : Prop :=
  (∀ d, responseCode (.ok d) = 0x0#4) ∧
    [Err.parseError, .invalidBlockLength, .invalidKeyLength, .malformedTableSet, .lengthMismatch,
        .blockSizeMismatch, .outputWidthMismatch, .indexOutOfRange, .invalidWidth, .illegalCommand,
        .roundKeyMissing, .badRoundIndex].map (fun e => responseCode (.error e)) =
      [0x1#4, 0x2#4, 0x3#4, 0x4#4, 0x5#4, 0x6#4, 0x7#4, 0x8#4, 0x9#4, 0xA#4, 0xB#4, 0xC#4]

/-- R18: every bit of STATUS as a function of the rest of the state, the reserved bits zero. That KEYS is 0
for a store without entries (`roundCount = 0`) is the model's choice (log entry 19). -/
def Obligations.StatusBits : Prop :=
  ∀ s : State,
    (s.status.getLsbD 0 = true ↔ s.seq ≠ .idle) ∧ (s.status.getLsbD 1 = true ↔ s.errmask ≠ 0#16) ∧
    (s.status.getLsbD 2 = true ↔ s.tsviol ≠ 0#8) ∧ 
    (s.status.getLsbD 3 = true ↔ s.rk ≠ [] ∧ ∀ o ∈ s.rk, o ≠ none) ∧
    (s.status.getLsbD 4 = true ↔ s.dout ≠ none) ∧
    s.status.getLsbD 5 = false ∧ s.status.getLsbD 6 = false ∧ s.status.getLsbD 7 = false

/-- R199: what a step that is not a reset does to ERRMASK: an error response sets the bit of its code and
no other, and only an accepted CLRERR that answers OK clears any. -/
def Obligations.StickyFlagsFollowResponses : Prop :=
  ∀ s t : State, step s = .next t → s.line.rst = false →
    (∀ e, t.rsp = some (.error e) → t.errmask = s.errmask ||| (1#16 <<< errCode e)) ∧
    (t.rsp = none → t.errmask = s.errmask) ∧
    (∀ d, t.rsp = some (.ok d) →
      t.errmask = s.errmask ∨
        (t.errmask = 0#16 ∧ s.seq = .idle ∧ s.line.cmdValid = true ∧ decode s.line.cmdWord = .ok .clrerr))

/-- R197, R198: a command that answers an error changes nothing but the response and the sticky flag of its
code (and the transients, of which R21 says nothing), and an error carries no data. -/
def Obligations.FailedCommandsChangeOnlyTheFlags : Prop :=
  ∀ (i : Instr) (s t : State) (e : Err), exec i s = .next t → t.rsp = some (.error e) →
    Answered s t (.error e) s.rk s.dout (s.errmask ||| (1#16 <<< errCode e))

/-! ### Results of the commands -/

/-- R180: NOP is the word 0x0000 alone; it answers OK, also with a bad table set, and on an idle engine
writes nothing; no other command answers OK when TSERR = 1. -/
def Obligations.NopAnswersOkAndWritesNothing : Prop :=
  (∀ w : CmdWord, decode w = .ok .nop ↔ w = 0x0000#16) ∧
    (∀ s : State, s.seq = .idle → exec .nop s = .next { s with rsp := some (.ok none) }) ∧
    ∀ (i : Instr) (s t : State) (d : Option BV), s.tsviol ≠ 0#8 → exec i s = .next t →
      t.rsp = some (.ok d) → i = .nop

/-- R181: CLRERR is the word 0x6000; on a good table set it clears ERRMASK, and with it STATUS.ERR, answers
OK and writes nothing else; on a bad one it answers MalformedTableSet, sets bit 4 and clears nothing. -/
def Obligations.ClrerrClearsTheStickyFlags : Prop :=
  (∀ w : CmdWord, decode w = .ok .clrerr ↔ w = 0x6000#16) ∧
    ∀ s : State, s.seq = .idle →
      (s.tsviol = 0#8 → exec .clrerr s = .next { s with rsp := some (.ok none), errmask := 0x0000#16 }) ∧
      (s.tsviol ≠ 0#8 →
        exec .clrerr s =
          .next { s with rsp := some (.error .malformedTableSet), errmask := s.errmask ||| 0x0010#16 }) ∧
      ∀ t, exec .clrerr s = .next t → s.tsviol = 0#8 → t.status.getLsbD 1 = false

/-- R125: RKRD idx is the word 0x2000 + idx; on a good table set it answers BadRoundIndex outside
`1..roundCount`, else RoundKeyMissing for an entry that holds none, else the entry, which DOUT takes; RK and
everything else are unchanged. -/
def Obligations.RkrdReadsOneRoundKey : Prop :=
  (∀ idx, idx < 256 → decode (0x2000#16 + BitVec.ofNat 16 idx) = .ok (.rkrd idx)) ∧
    ∀ (s : State) (idx : Nat), s.seq = .idle → s.tsviol = 0#8 →
      (idx < 1 ∨ s.tables.roundCount < idx →
        exec (.rkrd idx) s =
          .next { s with rsp := some (.error .badRoundIndex), errmask := s.errmask ||| 0x1000#16 }) ∧
      (1 ≤ idx → idx ≤ s.tables.roundCount → s.rk[idx - 1]? = some none →
        exec (.rkrd idx) s =
          .next { s with rsp := some (.error .roundKeyMissing), errmask := s.errmask ||| 0x0800#16 }) ∧
      (∀ k, 1 ≤ idx → idx ≤ s.tables.roundCount → s.rk[idx - 1]? = some (some k) →
        exec (.rkrd idx) s = .next { s with rsp := some (.ok (some k)), dout := some k })

/-- R126: RKWR idx is the word 0x3000 + idx; on a good table set it answers BadRoundIndex outside
`1..roundCount`, else LengthMismatch for an operand that is not `roundKeyBits` wide, else writes the operand
into that entry and no other; DOUT and everything else are unchanged. -/
def Obligations.RkwrWritesOneRoundKey : Prop :=
  (∀ idx, idx < 256 → decode (0x3000#16 + BitVec.ofNat 16 idx) = .ok (.rkwr idx)) ∧
    ∀ (s : State) (idx : Nat), s.seq = .idle → s.tsviol = 0#8 →
      (idx < 1 ∨ s.tables.roundCount < idx →
        exec (.rkwr idx) s =
          .next { s with rsp := some (.error .badRoundIndex), errmask := s.errmask ||| 0x1000#16 }) ∧
      (1 ≤ idx → idx ≤ s.tables.roundCount → s.operand.length ≠ s.tables.roundKeyBits →
        exec (.rkwr idx) s =
          .next { s with rsp := some (.error .lengthMismatch), errmask := s.errmask ||| 0x0020#16 }) ∧
      (1 ≤ idx → idx ≤ s.tables.roundCount → s.operand.length = s.tables.roundKeyBits →
        exec (.rkwr idx) s =
          .next { s with rsp := some (.ok none), rk := s.rk.set (idx - 1) (some s.operand) })

/-- R122: on a good table set KEYLOAD of a master key of the right length completes: it stores the whole
derived sequence, sets KEYS, answers OK, and leaves DOUT and the flags. -/
def Obligations.KeyloadStoresTheDerivedKeys : Prop :=
  ∀ s : State, ValidTables s.tables → s.tsviol = 0#8 → s.operand.length = s.tables.keyBits →
    ∃ (ks : List BV) (t : State), deriveRoundKeys s.tables s.operand = .ok ks ∧ KeysFit s.tables ks ∧
      exec .keyload s = .next t ∧ Answered s t (.ok none) (ks.map some) s.dout s.errmask ∧
      t.status.getLsbD 3 = true

/-- R161: on a good table set, with a complete store, ENC of a block of the right length completes: it
answers `transform` of the block with the stored keys in ascending order, DOUT takes it, and RK and the
flags are unchanged. -/
def Obligations.EncTransformsWithKeysAscending : Prop :=
  ∀ (s : State) (ks : List BV), ValidTables s.tables → s.tsviol = 0#8 →
    s.operand.length = s.tables.blockBits → s.rk = ks.map some → KeysFit s.tables ks →
    ∃ (out : BV) (t : State), transform s.tables s.operand ks = .ok out ∧ out.length = s.tables.blockBits ∧
      exec .enc s = .next t ∧ Answered s t (.ok (some out)) s.rk (some out) s.errmask ∧
      t.status.getLsbD 4 = true

/-- R162: on a good table set, with a complete store, DEC of a block of the right length completes: it
answers `transform` of the block with the stored keys in descending order, DOUT takes it, and RK and the
flags are unchanged. -/
def Obligations.DecTransformsWithKeysDescending : Prop :=
  ∀ (s : State) (ks : List BV), ValidTables s.tables → s.tsviol = 0#8 →
    s.operand.length = s.tables.blockBits → s.rk = ks.map some → KeysFit s.tables ks →
    ∃ (out : BV) (t : State), transform s.tables s.operand ks.reverse = .ok out ∧
      out.length = s.tables.blockBits ∧ exec .dec s = .next t ∧
      Answered s t (.ok (some out)) s.rk (some out) s.errmask ∧ t.status.getLsbD 4 = true

/-- R122, R161, R162, R193, R35: with a good table set, KEYLOAD, ENC and DEC look at the operand's length
first and at the key store second, and answer the one error that applies first, with nothing else done
(the transients apart, of which R21 says nothing). -/
def Obligations.LengthIsCheckedBeforeKeyPresence : Prop :=
  ∀ s : State, s.tsviol = 0#8 →
    (s.operand.length ≠ s.tables.keyBits →
      ∃ t, exec .keyload s = .next t ∧
        Answered s t (.error .invalidKeyLength) s.rk s.dout (s.errmask ||| 0x0008#16)) ∧
    ∀ i : Instr, i = .enc ∨ i = .dec →
      (s.operand.length ≠ s.tables.blockBits →
        ∃ t, exec i s = .next t ∧
          Answered s t (.error .invalidBlockLength) s.rk s.dout (s.errmask ||| 0x0004#16)) ∧
      (s.operand.length = s.tables.blockBits → none ∈ s.rk →
        ∃ t, exec i s = .next t ∧
          Answered s t (.error .roundKeyMissing) s.rk s.dout (s.errmask ||| 0x0800#16))

/-- R168 in command form: on a good table set with a complete store, ENC then DEC of its answer gives the
block back, and DEC then ENC likewise. -/
def Obligations.EncAndDecUndoEachOther : Prop :=
  ∀ (s s' : State) (ks : List BV) (i j : Instr), (i = .enc ∧ j = .dec) ∨ (i = .dec ∧ j = .enc) →
    ValidTables s.tables → s.tsviol = 0#8 → s.operand.length = s.tables.blockBits →
    s.rk = ks.map some → KeysFit s.tables ks →
    s'.tables = s.tables → s'.tsviol = s.tsviol → s'.rk = s.rk →
    (∀ t out, exec i s = .next t → t.rsp = some (.ok (some out)) → s'.operand = out) →
      ∃ u, exec j s' = .next u ∧ u.rsp = some (.ok (some s.operand)) ∧ u.dout = some s.operand

/-- R21: the result of a command does not depend on what the transients held before it. -/
def Obligations.TransientsDoNotInfluenceCommands : Prop :=
  ∀ (i : Instr) (s s' t : State), dropTransients s = dropTransients s' → exec i s = .next t →
    ∃ t', exec i s' = .next t' ∧ dropTransients t = dropTransients t'

/-- R16, R17: only KEYLOAD and RKWR change the round-key store, and DOUT changes exactly when the response
carries data, which only RKRD, ENC and DEC answers do. -/
def Obligations.OnlyTheirOwnCommandsWriteRkAndDout : Prop :=
  ∀ (i : Instr) (s t : State), exec i s = .next t →
    (t.rk ≠ s.rk → i = .keyload ∨ ∃ idx, i = .rkwr idx) ∧
    (∀ v, t.rsp = some (.ok (some v)) → t.dout = some v ∧ (i = .enc ∨ i = .dec ∨ ∃ idx, i = .rkrd idx)) ∧
    ((∀ v, t.rsp ≠ some (.ok (some v))) → t.dout = s.dout)

/-! ### The host's lines (20_memory.md, 30_encoding.md) -/

/-- R33: for `din_len ≤ DW` the operand has length `din_len`, position `i` is port bit `din_len − i`, and
nothing above `din_len` matters; so the lines of an issued command (R51, R61) carry exactly its operand. -/
def Obligations.OperandIsRightAligned : Prop :=
  (∀ (dw draw : Nat) (p : PortIn), p.dinLen.toNat ≤ dw →
    (portVector dw draw p).length = p.dinLen.toNat ∧
    (∀ i, 1 ≤ i → i ≤ p.dinLen.toNat →
      bit (portVector dw draw p) i = p.din.testBit (p.dinLen.toNat - i)) ∧
    ∀ (draw' : Nat) (q : PortIn), q.dinLen = p.dinLen →
      q.din % 2 ^ p.dinLen.toNat = p.din % 2 ^ p.dinLen.toNat →
        portVector dw draw' q = portVector dw draw p) ∧
    ∀ (dw draw : Nat) (i : Instr) (v : BV), v.length ≤ 255 → v.length ≤ dw →
      portVector dw draw (issue i v) = v

/-- R33, R60, R50: an idle engine shows DOUT right-aligned with its length, the word below `2^dout_len`, so the
port bits above are zero; with DOUT = none `dout_len` is 0. R50, R52, R60, R220: without `rst` a response just
issued is shown with its code and says whether it carries data; with no response issued `rsp_valid` is 0. -/
def Obligations.PortsShowDoutAndResponses : Prop :=
  (∀ (s : State) (a : Response), s.rsp = some a → s.line.rst = false →
    s.ports.rspValid = true ∧ s.ports.rspCode = responseCode a ∧
    (s.ports.rspHasData = true ↔ ∃ v, a = .ok (some v))) ∧
  (∀ s : State, s.rsp = none → s.ports.rspValid = false) ∧
  ∀ s : State, s.seq = .idle →
    (∀ v, s.dout = some v → v.length ≤ 255 →
      s.ports.doutLen.toNat = v.length ∧ s.ports.dout = val v ∧ s.ports.dout < 2 ^ v.length) ∧
    (s.dout = none → s.ports.doutLen = 0#8) ∧
    s.ports.status = s.status ∧ s.ports.errmask = s.errmask ∧ s.ports.tsviol = s.tsviol ∧
    (s.ports.cmdReady = true ↔ s.line.rst = false)

/-- R229: while a command is in progress `cmd_ready` is 0, `STATUS.BUSY` is 1, `STATUS.TSERR` and `tsviol`
hold their values and no response is shown. R18 and 93_implementation_defined.md U17, not R229, give the value of
TSERR and the zeros of the reserved bits STATUS[7:5]. The other outputs are free (log entry 7). -/
def Obligations.BusyPorts : Prop :=
  ∀ s : State, s.Inv → s.seq ≠ .idle →
    s.ports.cmdReady = false ∧ s.ports.rspValid = false ∧ s.ports.status.getLsbD 0 = true ∧
    (s.ports.status.getLsbD 2 = true ↔ s.tsviol ≠ 0#8) ∧ s.ports.tsviol = s.tsviol ∧
    s.ports.status.getLsbD 5 = false ∧ s.ports.status.getLsbD 6 = false ∧ s.ports.status.getLsbD 7 = false

/-- R55, U9: NOP, RKRD and CLRERR ignore `din_len` and `din` entirely. -/
def Obligations.OperandlessCommandsIgnoreTheDataLines : Prop :=
  ∀ (s : State) (i : Instr) (n : BitVec 8) (x : Nat), s.line.rst = false → s.seq = .idle →
    s.line.cmdValid = true → decode s.line.cmdWord = .ok i →
    (i = .nop ∨ i = .clrerr ∨ ∃ idx, i = .rkrd idx) →
      step { s with inputs := { s.line with dinLen := n, din := x } :: s.inputs.tail } = step s

/-- R51: what the host drives on the command lines while a command is in progress has no effect of any
kind. -/
def Obligations.OffersWhileBusyHaveNoEffect : Prop :=
  ∀ (s : State) (p : PortIn), s.seq ≠ .idle → s.line.rst = false → p.rst = false →
    step { s with inputs := p :: s.inputs.tail } = step s

/-! ### Steps -/

/-- R51, R53, R59, R167: without reset, on an idle engine whose offered word decodes to `i` the step is the whole
command `exec i` when the host does not watch and the decode step `startCommand i` alone when it does; on an idle
engine with no command offered nothing happens; on a busy engine the step is one micro-step. In each case no
older response is shown, the lines looked at are gone and the draw counter moves. That `watch`, which is no port
of R50, chooses between the spec's two grains is the model's choice (log entry 5), and so are the fields `inputs`
and `draws` (log entries 4 and 7), which `afterLook` moves on. -/
def Obligations.StepRunsTheDecodedCommand : Prop :=
  (∀ t : State, afterLook (.next t) = .next { t with inputs := t.inputs.tail, draws := t.draws + 1 }) ∧
    (∀ f q, afterLook (.fault f) = .fault f ∧ afterLook (.refused q) = .refused q) ∧
    ∀ s : State, s.line.rst = false →
      (∀ i, s.seq = .idle → s.line.cmdValid = true → decode s.line.cmdWord = .ok i →
        (s.line.watch = false → step s = afterLook (exec i s)) ∧
        (s.line.watch = true → step s = afterLook (startCommand i s))) ∧
      (s.seq = .idle → s.line.cmdValid = false → step s = afterLook (.next { s with rsp := none })) ∧
      (s.seq ≠ .idle → step s = afterLook (microStep { s with rsp := none }))

/-- R58: an accepted illegal word answers IllegalCommand without data and changes nothing but the error
flags (`inputs` and `draws` are the model's own fields, log entries 4 and 7). -/
def Obligations.IllegalWordsChangeOnlyTheFlags : Prop :=
  ∀ (s : State) (x : Illegal), s.line.rst = false → s.seq = .idle → s.line.cmdValid = true →
    decode s.line.cmdWord = .error x →
      step s = .next { s with
        rsp := some (.error .illegalCommand)
        errmask := s.errmask ||| 0x0400#16
        inputs := s.inputs.tail
        draws := s.draws + 1 }

/-- R202, R59: with TSERR = 1 every accepted legal word but NOP answers MalformedTableSet and does nothing
else; reset of an instance with a bad table set leaves TSVIOL non-zero, and no later step changes it
(`inputs` and `draws` are the model's own fields, log entries 4 and 7). -/
def Obligations.BadTableSetRefusesAllWork : Prop :=
  (∀ (T : TableSet) (ins : List PortIn) (n : Nat), ¬ ValidTables T → (State.resetOf T ins n).tsviol ≠ 0#8) ∧
    (∀ (s : State) (i : Instr), s.line.rst = false → s.seq = .idle → s.line.cmdValid = true →
      decode s.line.cmdWord = .ok i → i ≠ .nop → s.tsviol ≠ 0#8 →
        step s = .next { s with
          rsp := some (.error .malformedTableSet)
          errmask := s.errmask ||| 0x0010#16
          inputs := s.inputs.tail
          draws := s.draws + 1 }) ∧
    ∀ s t : State, s.tsviol = BitVec.ofNat 8 (validate s.tables) → step s = .next t → t.tsviol = s.tsviol

/-- R220, R222: with `rst = 1` a step leaves the reset state of R23, whatever was in progress, and issues no
response; while `rst = 1` is on the lines `cmd_ready` and `rsp_valid` are 0. -/
def Obligations.ResetAbandonsEverything : Prop :=
  ∀ s : State, s.line.rst = true →
    s.ports.cmdReady = false ∧ s.ports.rspValid = false ∧
    ∃ t, step s = .next t ∧ t.seq = .idle ∧ t.rk = List.replicate s.tables.roundCount none ∧
      t.dout = none ∧ t.errmask = 0x0000#16 ∧ t.tsviol = BitVec.ofNat 8 (validate s.tables) ∧
      t.rsp = none ∧ t.tables = s.tables

/-- R23: the values after reset of an instance built with any `T`, STATUS as a whole: 0x00, or 0x04 when `T` fails
validation (KEYS = 0 also where `roundCount = 0`, log entry 19); no response is shown, and `cmd_ready` is 1 once
`rst` is released. That `State.reset` is the FULL64 instance
is the model's choice (log entry 1). -/
def Obligations.ResetValues : Prop :=
  ∀ (T : TableSet) (ins : List PortIn) (n : Nat),
    (State.resetOf T ins n).seq = .idle ∧
    (State.resetOf T ins n).rk.length = T.roundCount ∧ (∀ o ∈ (State.resetOf T ins n).rk, o = none) ∧
    (State.resetOf T ins n).dout = none ∧ (State.resetOf T ins n).errmask = 0x0000#16 ∧
    (State.resetOf T ins n).tsviol = BitVec.ofNat 8 (validate T) ∧ (State.resetOf T ins n).rsp = none ∧
    (ValidTables T → (State.resetOf T ins n).status = 0x00#8) ∧
    (¬ ValidTables T → (State.resetOf T ins n).status = 0x04#8) ∧
    (State.resetOf T ins n).ports.rspValid = false ∧
    ((State.resetOf T ins n).ports.cmdReady = true ↔ (State.resetOf T ins n).line.rst = false) ∧
    State.reset = State.resetOf full64 [] 0

/-- R20, R24: no step changes the table set, and only reset can change TSVIOL. That each step takes one entry
off the host's list `inputs` is the model's choice (log entry 4). -/
def Obligations.NoStepChangesTheTableSet : Prop :=
  ∀ s t : State, step s = .next t →
    t.tables = s.tables ∧ (s.line.rst = false → t.tsviol = s.tsviol) ∧ t.inputs = s.inputs.tail

/-- R52, R60: a step that is not a reset issues a response exactly when it ends a command, and then the
engine is idle; only a response that carries data changes DOUT. -/
def Obligations.OneResponsePerCommand : Prop :=
  ∀ s t : State, step s = .next t → s.line.rst = false →
    (t.rsp ≠ none ↔ t.seq = .idle ∧ (s.seq ≠ .idle ∨ s.line.cmdValid = true)) ∧
    (∀ v, t.rsp = some (.ok (some v)) → t.dout = some v) ∧
    ((∀ v, t.rsp ≠ some (.ok (some v))) → t.dout = s.dout)

/-! ### The sequencer (42_keyschedule.md, 44_cipherengine.md) -/

/-- R59, R14: on a good table set the decode step of KEYLOAD, ENC and DEC latches the operand and the
direction and starts the sequencer, writing nothing else (the response lines show no response). -/
def Obligations.DecodeStepLatchesOperands : Prop :=
  ∀ s : State, s.tsviol = 0#8 →
    startCommand .keyload s = .next { s with rsp := none, keyin := some s.operand, seq := .ksInit } ∧
    startCommand .enc s =
      .next { s with rsp := none, blk := some s.operand, dirf := some false, seq := .initial } ∧
    startCommand .dec s =
      .next { s with rsp := none, blk := some s.operand, dirf := some true, seq := .initial }

/-- R123, R124: micro-step KsInit raises InvalidKeyLength on a wrong length, changing nothing else but the flag
and the transients (R21, R197, log entry 6), and otherwise loads C and D with the two parts of
`permute(KEYIN, PC1)` and goes to KsRound(1); micro-step KsRound(r) rotates C and D by `shift(r)`, writes `RK[r]`
from the rotated halves, and goes to KsRound(r+1), or answers OK and goes to Idle after the last round. -/
def Obligations.KeyScheduleMicroSteps : Prop :=
  (∀ (s : State) (k : BV), s.seq = .ksInit → s.keyin = some k →
    (k.length ≠ s.tables.keyBits →
      ∃ t, microStep s = .next t ∧
        Answered s t (.error .invalidKeyLength) s.rk s.dout (s.errmask ||| 0x0008#16)) ∧
    ∀ cd c d, k.length = s.tables.keyBits → permute k s.tables.keyPermutation1 = .ok cd →
      split cd s.tables.leftHalfBits = .ok (c, d) →
        microStep s = .next { s with c := some c, d := some d, seq := .ksRound 1 }) ∧
    ∀ (s : State) (r n : Nat) (c d k : BV), s.seq = .ksRound r → 1 ≤ r → r ≤ s.tables.roundCount →
      s.c = some c → s.d = some d → s.tables.shiftSchedule[r - 1]? = some n →
      permute (rotateLeft c n ++ rotateLeft d n) s.tables.keyPermutation2 = .ok k →
        (r < s.tables.roundCount →
          microStep s = .next { s with
            c := some (rotateLeft c n)
            d := some (rotateLeft d n)
            rk := s.rk.set (r - 1) (some k)
            seq := .ksRound (r + 1) }) ∧
        (r = s.tables.roundCount →
          ∃ t, microStep s = .next t ∧
            Answered s t (.ok none) (s.rk.set (r - 1) (some k)) s.dout s.errmask)

/-- R163, R197, R21: micro-step Initial raises InvalidBlockLength on a wrong length, else RoundKeyMissing when an
entry of the store holds none, changing nothing else but the flag and the transients, which R21 leaves
unspecified and the model drops (log entry 6); otherwise it loads L and R with the halves of
`permute(BLK, IP)` and goes to RoundExecuting(1). -/
def Obligations.InitialMicroStep : Prop :=
  ∀ (s : State) (b : BV), s.seq = .initial → s.blk = some b →
    (b.length ≠ s.tables.blockBits →
      ∃ t, microStep s = .next t ∧
        Answered s t (.error .invalidBlockLength) s.rk s.dout (s.errmask ||| 0x0004#16)) ∧
    (b.length = s.tables.blockBits → none ∈ s.rk →
      ∃ t, microStep s = .next t ∧
        Answered s t (.error .roundKeyMissing) s.rk s.dout (s.errmask ||| 0x0800#16)) ∧
    ∀ p l r, b.length = s.tables.blockBits → none ∉ s.rk →
      permute b s.tables.initialPermutation = .ok p → split p s.tables.halfBits = .ok (l, r) →
        microStep s = .next { s with l := some l, r := some r, seq := .roundExecuting 1 }

/-- R164: micro-step RoundExecuting(r) takes `RK[r]` when DIRF = 0 and `RK[roundCount + 1 − r]` when
DIRF = 1, sets L to the old R and R to `L xor F(R, k)` at once, and goes to the next round or to Swapped. -/
def Obligations.RoundMicroStep : Prop :=
  ∀ (s : State) (r : Nat) (dir : Bool) (k l₀ r₀ f x : BV), s.seq = .roundExecuting r → 1 ≤ r →
    r ≤ s.tables.roundCount → s.dirf = some dir →
    (dir = false → s.rk[r - 1]? = some (some k)) →
    (dir = true → s.rk[s.tables.roundCount - r]? = some (some k)) →
    s.l = some l₀ → s.r = some r₀ → roundFunction s.tables r₀ k = .ok f → xorBits l₀ f = .ok x →
      (r < s.tables.roundCount →
        microStep s = .next { s with l := some r₀, r := some x, seq := .roundExecuting (r + 1) }) ∧
      (r = s.tables.roundCount → microStep s = .next { s with l := some r₀, r := some x, seq := .swapped })

/-- R165, R166: micro-step Swapped sets BLK to `R ‖ L` and goes to Final; micro-step Final answers OK with
`permute(BLK, FP)`, which DOUT takes, and goes to Idle. -/
def Obligations.SwappedAndFinalMicroSteps : Prop :=
  (∀ (s : State) (l r : BV), s.seq = .swapped → s.l = some l → s.r = some r →
    microStep s = .next { s with blk := some (r ++ l), seq := .final }) ∧
    ∀ (s : State) (b out : BV), s.seq = .final → s.blk = some b →
      permute b s.tables.finalPermutation = .ok out →
        ∃ t, microStep s = .next t ∧ Answered s t (.ok (some out)) s.rk (some out) s.errmask

/-- R167: the sequencer's transitions from a state a run can reach: what each micro-step may lead to, and
that a busy engine never sees a datapath error. -/
def Obligations.SequencerTransitions : Prop :=
  ∀ s t : State, s.Inv → microStep s = .next t →
    match s.seq with
    | .idle => t.seq = .idle
    | .ksInit => t.seq = .ksRound 1 ∨ (t.seq = .idle ∧ t.rsp = some (.error .invalidKeyLength))
    | .ksRound r => if r < s.tables.roundCount then t.seq = .ksRound (r + 1)
        else t.seq = .idle ∧ t.rsp = some (.ok none)
    | .initial => t.seq = .roundExecuting 1 ∨ (t.seq = .idle ∧
        (t.rsp = some (.error .invalidBlockLength) ∨ t.rsp = some (.error .roundKeyMissing)))
    | .roundExecuting r => if r < s.tables.roundCount then t.seq = .roundExecuting (r + 1)
        else t.seq = .swapped
    | .swapped => t.seq = .final
    | .final => t.seq = .idle ∧ ∃ v, t.rsp = some (.ok (some v)) ∧ v.length = s.tables.blockBits

/-- R167, R232: from every state a run can reach, at most `roundCount + 3` micro-steps lead to Idle: the
engine cannot hang. -/
def Obligations.EveryCommandTerminates : Prop :=
  ∀ s : State, s.Inv → ∃ n t, n ≤ s.tables.roundCount + 3 ∧ microRun n s = .next t ∧ t.seq = .idle

/-- R171, R53: on an idle engine the decode step of a command followed by its micro-steps gives exactly the
state its closed form gives, within `roundCount + 3` micro-steps. That the two agree on the transients as well
is the model's choice of none at Idle (log entry 6). -/
def Obligations.MicroStepsEqualTheClosedForm : Prop :=
  ∀ (i : Instr) (s : State), s.Inv → s.seq = .idle →
    ∃ u t n, startCommand i s = .next u ∧ n ≤ s.tables.roundCount + 3 ∧ microRun n u = .next t ∧
      exec i s = .next t

/-! ### Invariants -/

/-- R23, R220: the invariant holds right after reset, whatever table set the instance was built with; that
`State.reset` is the FULL64 instance (log entry 1) and that the transients hold none at Idle (log entry 6)
are the model's choices. -/
def Obligations.ResetMeetsTheInvariant : Prop :=
  State.reset.Inv ∧ ∀ (T : TableSet) (ins : List PortIn) (n : Nat), (State.resetOf T ins n).Inv

/-- R11, R15, R16, R17, R19, R20, R52, R202: every step keeps the invariant: store and DOUT widths, TSVIOL,
the sticky bits, the registers each sequencer state reads, and an inert instance for a bad table set. Its clause
that the transients hold none at Idle is the model's choice (log entry 6). -/
def Obligations.StepKeepsTheInvariant : Prop :=
  ∀ s t : State, s.Inv → step s = .next t → t.Inv

/-- R53, R108, R167: from every state that meets the invariant a step answers a next state: no command, no
reset and no micro-step ever stops the machine, for any table set. -/
def Obligations.NoReachableStepStops : Prop :=
  ∀ s : State, s.Inv → ∃ t, step s = .next t

/-- R192, R190: from every state that meets the invariant no step answers ParseError, BlockSizeMismatch,
OutputWidthMismatch, IndexOutOfRange or InvalidWidth, and LengthMismatch is answered only to RKWR. -/
def Obligations.InternalErrorsAreUnreachable : Prop :=
  ∀ (s t : State) (e : Err), s.Inv → step s = .next t → t.rsp = some (.error e) →
    e ≠ .parseError ∧ e ≠ .blockSizeMismatch ∧ e ≠ .outputWidthMismatch ∧ e ≠ .indexOutOfRange ∧
    e ≠ .invalidWidth ∧
    (e = .lengthMismatch → s.seq = .idle ∧ ∃ idx, decode s.line.cmdWord = .ok (.rkwr idx))
end

