-- ==== Sys2Proof/Laws/Tables.lean ====
section
/-! SUPPORT. What the checks of `validate` say, once each. -/

namespace Sys2Proof.Machine

theorem entriesWithin_iff (tab : List Nat) (n : Nat) :
    entriesWithin tab n = true ↔ ∀ t ∈ tab, 1 ≤ t ∧ t ≤ n := by
  simp [entriesWithin]

theorem noRepeat_iff (tab : List Nat) : noRepeat tab = true ↔ tab.Nodup := by
  induction tab with
  | nil => simp [noRepeat]
  | cons t ts ih =>
    simp only [noRepeat, Bool.and_eq_true, ih, List.nodup_cons, List.all_eq_true]
    refine and_congr_left fun _ => ?_
    have key : ∀ u, (!Nat.beq u t) = true ↔ u ≠ t := by
      intro u
      rw [Bool.not_eq_true', ← Bool.not_eq_true, Nat.beq_eq]
    simp only [key]
    exact ⟨fun h hm => h t hm rfl, fun h u hu he => h (he ▸ hu)⟩

theorem isSelection_iff (tab : List Nat) (count n : Nat) :
    isSelection tab count n = true ↔
      tab.length = count ∧ (∀ t ∈ tab, 1 ≤ t ∧ t ≤ n) ∧ tab.Nodup := by
  simp [isSelection, entriesWithin_iff, noRepeat_iff, and_assoc]

/-- No check fails exactly when all hold; a failing check's number is at least the first number. -/
theorem firstViolated_eq_zero_iff (cs : List Bool) (n : Nat) :
    firstViolated (n + 1) cs = 0 ↔ ∀ c ∈ cs, c = true := by
  induction cs generalizing n with
  | nil => simp [firstViolated]
  | cons c cs ih => cases c <;> simp [firstViolated, ih]

theorem firstViolated_lt (cs : List Bool) (n : Nat) : firstViolated n cs < n + cs.length + 1 := by
  induction cs generalizing n with
  | nil => simp [firstViolated]
  | cons c cs ih =>
    cases c
    · simp [firstViolated]
    · have := ih (n + 1)
      simp [firstViolated]; omega

theorem validate_lt (T : TableSet) : validate T < 256 :=
  Nat.lt_of_lt_of_le (firstViolated_lt _ _) (by simp)

theorem validate_eq_zero_iff (T : TableSet) :
    validate T = 0 ↔
      v1 T = true ∧ v2 T = true ∧ v3 T = true ∧ v4 T = true ∧ v5 T = true ∧ v6 T = true ∧ v7 T = true ∧
      v8 T = true ∧ v9 T = true ∧ v10 T = true ∧ v11 T = true ∧ v12 T = true ∧ v13 T = true ∧
      v14 T = true := by
  rw [validate, firstViolated_eq_zero_iff]
  simp

/-- `TSVIOL = 0` exactly for a valid table set: the 8-bit register loses nothing of `Validate(T)`. -/
theorem tsviol_word_eq_zero_iff (T : TableSet) : BitVec.ofNat 8 (validate T) = 0#8 ↔ validate T = 0 := by
  have h := validate_lt T
  constructor
  · intro e
    have := congrArg BitVec.toNat e
    simpa [Nat.mod_eq_of_lt h] using this
  · intro e
    rw [e]

end Sys2Proof.Machine
end

