-- ==== Sys2Proof/Laws/Datapath.lean ====
section
/-! SUPPORT. What each datapath primitive can do, once each: callers cite these and never unfold it. -/

namespace Sys2Proof.Machine

/-! ### Results -/

@[simp] theorem Res_bind_ok {α β : Type} (a : α) (f : α → Res β) : (Except.ok a >>= f : Res β) = f a := rfl

@[simp] theorem Res_bind_error {α β : Type} (x : Stop) (f : α → Res β) :
    (Except.error x >>= f : Res β) = Except.error x := rfl

@[simp] theorem Res_pure {α : Type} (a : α) : (pure a : Res α) = Except.ok a := rfl

/-- A sequence of datapath operations gives a value exactly when each of its parts does. -/
theorem Res_bind_eq_ok {α β : Type} (m : Res α) (f : α → Res β) (b : β) :
    (m >>= f) = .ok b ↔ ∃ a, m = .ok a ∧ f a = .ok b := by
  cases m <;> simp

/-! ### Lengths -/

theorem bv_length (n x : Nat) : (bv n x).length = n := by simp [bv]

theorem rotateLeft_length (v : BV) (n : Nat) : (rotateLeft v n).length = v.length := by
  unfold rotateLeft
  split
  · rfl
  · have := Nat.mod_lt n (Nat.pos_of_ne_zero ‹_›)
    simp
    omega

theorem chunksOf_length (w n : Nat) (v : BV) : (chunksOf w n v).length = n := by
  induction n generalizing v with
  | zero => rfl
  | succ n ih => simp [chunksOf, ih]

theorem length_of_mem_chunksOf {w n : Nat} {v chunk : BV} (hv : v.length = n * w)
    (h : chunk ∈ chunksOf w n v) : chunk.length = w := by
  induction n generalizing v with
  | zero => simp [chunksOf] at h
  | succ n ih =>
    rw [chunksOf, List.mem_cons] at h
    rcases h with rfl | h
    · simp [hv, Nat.succ_mul]
    · exact ih (by simp [hv, Nat.succ_mul]) h

/-! ### permute, split, xor -/

theorem permute_of_within {v : BV} {tab : List Nat} (h : ∀ t ∈ tab, 1 ≤ t ∧ t ≤ v.length) :
    permute v tab = .ok (tab.map (bit v)) := by
  rw [permute, if_pos ((entriesWithin_iff _ _).2 h)]

/-- `permute` gives a vector of the table's length, or raises IndexOutOfRange. -/
theorem permute_cases (v : BV) (tab : List Nat) :
    ((∀ t ∈ tab, 1 ≤ t ∧ t ≤ v.length) ∧ permute v tab = .ok (tab.map (bit v))) ∨
      permute v tab = .error (.raise .indexOutOfRange) := by
  by_cases h : entriesWithin tab v.length = true
  · exact .inl ⟨(entriesWithin_iff _ _).1 h, by rw [permute, if_pos h]⟩
  · exact .inr (by rw [permute, if_neg h])

theorem permute_length {v out : BV} {tab : List Nat} (h : permute v tab = .ok out) :
    out.length = tab.length := by
  rcases permute_cases v tab with ⟨-, e⟩ | e <;> rw [e] at h
  · cases h
    simp
  · cases h

theorem split_of_le {v : BV} {n : Nat} (h : n ≤ v.length) : split v n = .ok (v.take n, v.drop n) := by
  rw [split, if_neg (by omega)]

theorem xorBits_of_length {a b : BV} (h : a.length = b.length) :
    xorBits a b = .ok (List.zipWith (fun x y => x ^^ y) a b) := by
  rw [xorBits, if_neg (by simpa using h)]

/-! ### Numeric reading -/

theorem foldl_val (v : BV) (acc : Nat) :
    v.foldl (fun a b => 2 * a + b.toNat) acc = acc * 2 ^ v.length + val v := by
  induction v generalizing acc with
  | nil => simp [val]
  | cons b v ih =>
    have e : val (b :: v) = b.toNat * 2 ^ v.length + val v := by
      rw [val, List.foldl_cons, ih]
      simp
    rw [List.foldl_cons, ih, e, List.length_cons, Nat.pow_succ]
    ring

theorem val_cons (b : Bool) (v : BV) : val (b :: v) = b.toNat * 2 ^ v.length + val v := by
  rw [val, List.foldl_cons, foldl_val]
  simp

theorem val_lt (v : BV) : val v < 2 ^ v.length := by
  induction v with
  | nil => simp [val]
  | cons b v ih =>
    rw [val_cons, List.length_cons, Nat.pow_succ]
    cases b <;> simp <;> omega

/-! ### The round-key sequence -/

theorem allPresent_eq_some_iff (regs : List (Option BV)) (ks : List BV) :
    allPresent regs = some ks ↔ regs = ks.map some := by
  induction regs generalizing ks with
  | nil => cases ks <;> simp [allPresent]
  | cons o regs ih =>
    cases o with
    | none => cases ks <;> simp [allPresent]
    | some k =>
      cases ks with
      | nil =>
        simp only [allPresent]
        split <;> simp
      | cons k' ks' =>
        simp only [allPresent, List.map_cons, List.cons.injEq, Option.some.injEq]
        split
        · rename_i rest h
          rw [ih] at h
          subst h
          rw [Option.some.injEq, List.cons.injEq]
          exact and_congr_right fun _ =>
            (List.map_injective_iff.2 (Option.some_injective _)).eq_iff.symm
        · rename_i h
          simp only [reduceCtorEq, false_iff, not_and]
          rintro - rfl
          exact absurd ((ih ks').2 rfl) (by simp [h])

theorem allPresent_eq_none_iff (regs : List (Option BV)) : allPresent regs = none ↔ none ∈ regs := by
  induction regs with
  | nil => simp [allPresent]
  | cons o regs ih =>
    cases o with
    | none => simp [allPresent]
    | some k =>
      simp only [allPresent, List.mem_cons, reduceCtorEq, false_or, ← ih]
      split <;> simp [*]

/-! ### The operand on the lines -/

theorem portVector_length (dw draw : Nat) (p : PortIn) :
    (portVector dw draw p).length = p.dinLen.toNat := by
  simp [portVector]

theorem operand_length (s : State) : s.operand.length = s.line.dinLen.toNat := portVector_length _ _ _

end Sys2Proof.Machine
end

