-- ==== Sys2Proof/Laws/State.lean ====
section
/-! SUPPORT. The state's record updates, one lemma per field per update, each true by rfl, so that no proof
unfolds an update. -/

namespace Sys2Proof.Machine

/-! ### `respond` -/

@[simp] theorem respond_tables (a : Response) (s : State) : (respond a s).tables = s.tables := rfl
@[simp] theorem respond_l (a : Response) (s : State) : (respond a s).l = s.l := rfl
@[simp] theorem respond_r (a : Response) (s : State) : (respond a s).r = s.r := rfl
@[simp] theorem respond_c (a : Response) (s : State) : (respond a s).c = s.c := rfl
@[simp] theorem respond_d (a : Response) (s : State) : (respond a s).d = s.d := rfl
@[simp] theorem respond_blk (a : Response) (s : State) : (respond a s).blk = s.blk := rfl
@[simp] theorem respond_keyin (a : Response) (s : State) : (respond a s).keyin = s.keyin := rfl
@[simp] theorem respond_dirf (a : Response) (s : State) : (respond a s).dirf = s.dirf := rfl
@[simp] theorem respond_seq (a : Response) (s : State) : (respond a s).seq = .idle := rfl
@[simp] theorem respond_rk (a : Response) (s : State) : (respond a s).rk = s.rk := rfl
@[simp] theorem respond_dout (a : Response) (s : State) : (respond a s).dout = doutAfter a s.dout := rfl
@[simp] theorem respond_errmask (a : Response) (s : State) : (respond a s).errmask = stickyAfter a s.errmask := rfl
@[simp] theorem respond_tsviol (a : Response) (s : State) : (respond a s).tsviol = s.tsviol := rfl
@[simp] theorem respond_rsp (a : Response) (s : State) : (respond a s).rsp = some a := rfl
@[simp] theorem respond_inputs (a : Response) (s : State) : (respond a s).inputs = s.inputs := rfl
@[simp] theorem respond_draws (a : Response) (s : State) : (respond a s).draws = s.draws := rfl

/-! ### `dropTransients` -/

@[simp] theorem dropTransients_tables (s : State) : (dropTransients s).tables = s.tables := rfl
@[simp] theorem dropTransients_l (s : State) : (dropTransients s).l = none := rfl
@[simp] theorem dropTransients_r (s : State) : (dropTransients s).r = none := rfl
@[simp] theorem dropTransients_c (s : State) : (dropTransients s).c = none := rfl
@[simp] theorem dropTransients_d (s : State) : (dropTransients s).d = none := rfl
@[simp] theorem dropTransients_blk (s : State) : (dropTransients s).blk = none := rfl
@[simp] theorem dropTransients_keyin (s : State) : (dropTransients s).keyin = none := rfl
@[simp] theorem dropTransients_dirf (s : State) : (dropTransients s).dirf = none := rfl
@[simp] theorem dropTransients_seq (s : State) : (dropTransients s).seq = s.seq := rfl
@[simp] theorem dropTransients_rk (s : State) : (dropTransients s).rk = s.rk := rfl
@[simp] theorem dropTransients_dout (s : State) : (dropTransients s).dout = s.dout := rfl
@[simp] theorem dropTransients_errmask (s : State) : (dropTransients s).errmask = s.errmask := rfl
@[simp] theorem dropTransients_tsviol (s : State) : (dropTransients s).tsviol = s.tsviol := rfl
@[simp] theorem dropTransients_rsp (s : State) : (dropTransients s).rsp = s.rsp := rfl
@[simp] theorem dropTransients_inputs (s : State) : (dropTransients s).inputs = s.inputs := rfl
@[simp] theorem dropTransients_draws (s : State) : (dropTransients s).draws = s.draws := rfl

/-! ### `conclude` -/

@[simp] theorem conclude_tables (a : Response) (s : State) : (conclude a s).tables = s.tables := rfl
@[simp] theorem conclude_l (a : Response) (s : State) : (conclude a s).l = none := rfl
@[simp] theorem conclude_r (a : Response) (s : State) : (conclude a s).r = none := rfl
@[simp] theorem conclude_c (a : Response) (s : State) : (conclude a s).c = none := rfl
@[simp] theorem conclude_d (a : Response) (s : State) : (conclude a s).d = none := rfl
@[simp] theorem conclude_blk (a : Response) (s : State) : (conclude a s).blk = none := rfl
@[simp] theorem conclude_keyin (a : Response) (s : State) : (conclude a s).keyin = none := rfl
@[simp] theorem conclude_dirf (a : Response) (s : State) : (conclude a s).dirf = none := rfl
@[simp] theorem conclude_seq (a : Response) (s : State) : (conclude a s).seq = .idle := rfl
@[simp] theorem conclude_rk (a : Response) (s : State) : (conclude a s).rk = s.rk := rfl
@[simp] theorem conclude_dout (a : Response) (s : State) : (conclude a s).dout = doutAfter a s.dout := rfl
@[simp] theorem conclude_errmask (a : Response) (s : State) : (conclude a s).errmask = stickyAfter a s.errmask := rfl
@[simp] theorem conclude_tsviol (a : Response) (s : State) : (conclude a s).tsviol = s.tsviol := rfl
@[simp] theorem conclude_rsp (a : Response) (s : State) : (conclude a s).rsp = some a := rfl
@[simp] theorem conclude_inputs (a : Response) (s : State) : (conclude a s).inputs = s.inputs := rfl
@[simp] theorem conclude_draws (a : Response) (s : State) : (conclude a s).draws = s.draws := rfl

/-! ### `rkWrite` -/

@[simp] theorem rkWrite_tables (s : State) (i : Nat) (k : BV) : (rkWrite s i k).tables = s.tables := rfl
@[simp] theorem rkWrite_l (s : State) (i : Nat) (k : BV) : (rkWrite s i k).l = s.l := rfl
@[simp] theorem rkWrite_r (s : State) (i : Nat) (k : BV) : (rkWrite s i k).r = s.r := rfl
@[simp] theorem rkWrite_c (s : State) (i : Nat) (k : BV) : (rkWrite s i k).c = s.c := rfl
@[simp] theorem rkWrite_d (s : State) (i : Nat) (k : BV) : (rkWrite s i k).d = s.d := rfl
@[simp] theorem rkWrite_blk (s : State) (i : Nat) (k : BV) : (rkWrite s i k).blk = s.blk := rfl
@[simp] theorem rkWrite_keyin (s : State) (i : Nat) (k : BV) : (rkWrite s i k).keyin = s.keyin := rfl
@[simp] theorem rkWrite_dirf (s : State) (i : Nat) (k : BV) : (rkWrite s i k).dirf = s.dirf := rfl
@[simp] theorem rkWrite_seq (s : State) (i : Nat) (k : BV) : (rkWrite s i k).seq = s.seq := rfl
@[simp] theorem rkWrite_rk (s : State) (i : Nat) (k : BV) : (rkWrite s i k).rk = s.rk.set (i - 1) (some k) := rfl
@[simp] theorem rkWrite_dout (s : State) (i : Nat) (k : BV) : (rkWrite s i k).dout = s.dout := rfl
@[simp] theorem rkWrite_errmask (s : State) (i : Nat) (k : BV) : (rkWrite s i k).errmask = s.errmask := rfl
@[simp] theorem rkWrite_tsviol (s : State) (i : Nat) (k : BV) : (rkWrite s i k).tsviol = s.tsviol := rfl
@[simp] theorem rkWrite_rsp (s : State) (i : Nat) (k : BV) : (rkWrite s i k).rsp = s.rsp := rfl
@[simp] theorem rkWrite_inputs (s : State) (i : Nat) (k : BV) : (rkWrite s i k).inputs = s.inputs := rfl
@[simp] theorem rkWrite_draws (s : State) (i : Nat) (k : BV) : (rkWrite s i k).draws = s.draws := rfl

/-! ### `noResponse` -/

@[simp] theorem noResponse_tables (s : State) : (noResponse s).tables = s.tables := rfl
@[simp] theorem noResponse_l (s : State) : (noResponse s).l = s.l := rfl
@[simp] theorem noResponse_r (s : State) : (noResponse s).r = s.r := rfl
@[simp] theorem noResponse_c (s : State) : (noResponse s).c = s.c := rfl
@[simp] theorem noResponse_d (s : State) : (noResponse s).d = s.d := rfl
@[simp] theorem noResponse_blk (s : State) : (noResponse s).blk = s.blk := rfl
@[simp] theorem noResponse_keyin (s : State) : (noResponse s).keyin = s.keyin := rfl
@[simp] theorem noResponse_dirf (s : State) : (noResponse s).dirf = s.dirf := rfl
@[simp] theorem noResponse_seq (s : State) : (noResponse s).seq = s.seq := rfl
@[simp] theorem noResponse_rk (s : State) : (noResponse s).rk = s.rk := rfl
@[simp] theorem noResponse_dout (s : State) : (noResponse s).dout = s.dout := rfl
@[simp] theorem noResponse_errmask (s : State) : (noResponse s).errmask = s.errmask := rfl
@[simp] theorem noResponse_tsviol (s : State) : (noResponse s).tsviol = s.tsviol := rfl
@[simp] theorem noResponse_rsp (s : State) : (noResponse s).rsp = none := rfl
@[simp] theorem noResponse_inputs (s : State) : (noResponse s).inputs = s.inputs := rfl
@[simp] theorem noResponse_draws (s : State) : (noResponse s).draws = s.draws := rfl

/-! ### `nextLook` -/

@[simp] theorem nextLook_tables (s : State) : (nextLook s).tables = s.tables := rfl
@[simp] theorem nextLook_l (s : State) : (nextLook s).l = s.l := rfl
@[simp] theorem nextLook_r (s : State) : (nextLook s).r = s.r := rfl
@[simp] theorem nextLook_c (s : State) : (nextLook s).c = s.c := rfl
@[simp] theorem nextLook_d (s : State) : (nextLook s).d = s.d := rfl
@[simp] theorem nextLook_blk (s : State) : (nextLook s).blk = s.blk := rfl
@[simp] theorem nextLook_keyin (s : State) : (nextLook s).keyin = s.keyin := rfl
@[simp] theorem nextLook_dirf (s : State) : (nextLook s).dirf = s.dirf := rfl
@[simp] theorem nextLook_seq (s : State) : (nextLook s).seq = s.seq := rfl
@[simp] theorem nextLook_rk (s : State) : (nextLook s).rk = s.rk := rfl
@[simp] theorem nextLook_dout (s : State) : (nextLook s).dout = s.dout := rfl
@[simp] theorem nextLook_errmask (s : State) : (nextLook s).errmask = s.errmask := rfl
@[simp] theorem nextLook_tsviol (s : State) : (nextLook s).tsviol = s.tsviol := rfl
@[simp] theorem nextLook_rsp (s : State) : (nextLook s).rsp = s.rsp := rfl
@[simp] theorem nextLook_inputs (s : State) : (nextLook s).inputs = s.inputs.tail := rfl
@[simp] theorem nextLook_draws (s : State) : (nextLook s).draws = s.draws + 1 := rfl

/-! ### `State.resetOf` -/

@[simp] theorem resetOf_tables (T : TableSet) (ins : List PortIn) (n : Nat) :
    (State.resetOf T ins n).tables = T := rfl
@[simp] theorem resetOf_l (T : TableSet) (ins : List PortIn) (n : Nat) :
    (State.resetOf T ins n).l = none := rfl
@[simp] theorem resetOf_r (T : TableSet) (ins : List PortIn) (n : Nat) :
    (State.resetOf T ins n).r = none := rfl
@[simp] theorem resetOf_c (T : TableSet) (ins : List PortIn) (n : Nat) :
    (State.resetOf T ins n).c = none := rfl
@[simp] theorem resetOf_d (T : TableSet) (ins : List PortIn) (n : Nat) :
    (State.resetOf T ins n).d = none := rfl
@[simp] theorem resetOf_blk (T : TableSet) (ins : List PortIn) (n : Nat) :
    (State.resetOf T ins n).blk = none := rfl
@[simp] theorem resetOf_keyin (T : TableSet) (ins : List PortIn) (n : Nat) :
    (State.resetOf T ins n).keyin = none := rfl
@[simp] theorem resetOf_dirf (T : TableSet) (ins : List PortIn) (n : Nat) :
    (State.resetOf T ins n).dirf = none := rfl
@[simp] theorem resetOf_seq (T : TableSet) (ins : List PortIn) (n : Nat) :
    (State.resetOf T ins n).seq = .idle := rfl
@[simp] theorem resetOf_rk (T : TableSet) (ins : List PortIn) (n : Nat) :
    (State.resetOf T ins n).rk = List.replicate T.roundCount none := rfl
@[simp] theorem resetOf_dout (T : TableSet) (ins : List PortIn) (n : Nat) :
    (State.resetOf T ins n).dout = none := rfl
@[simp] theorem resetOf_errmask (T : TableSet) (ins : List PortIn) (n : Nat) :
    (State.resetOf T ins n).errmask = 0#16 := rfl
@[simp] theorem resetOf_tsviol (T : TableSet) (ins : List PortIn) (n : Nat) :
    (State.resetOf T ins n).tsviol = BitVec.ofNat 8 (validate T) := rfl
@[simp] theorem resetOf_rsp (T : TableSet) (ins : List PortIn) (n : Nat) :
    (State.resetOf T ins n).rsp = none := rfl
@[simp] theorem resetOf_inputs (T : TableSet) (ins : List PortIn) (n : Nat) :
    (State.resetOf T ins n).inputs = ins := rfl
@[simp] theorem resetOf_draws (T : TableSet) (ins : List PortIn) (n : Nat) :
    (State.resetOf T ins n).draws = n := rfl

end Sys2Proof.Machine
end

