-- ==== Sys2Proof/Laws/Ops.lean ====
section
/-! SUPPORT. What each command and each micro-step can do when it answers a next state, said once: later
proofs cite these and do not unfold the meanings. -/

namespace Sys2Proof.Machine

/-! ### Shared operations -/

theorem tserrBit_eq_true_iff (s : State) : tserrBit s = true ↔ s.tsviol ≠ 0#8 := by
  simp [tserrBit]

theorem keysBit_eq_true_iff (s : State) : keysBit s = true ↔ s.rk ≠ [] ∧ ∀ o ∈ s.rk, o ≠ none := by
  simp [keysBit, Option.isSome_iff_ne_none]

theorem whenTablesValid_of_valid {s : State} (h : s.tsviol = 0#8) (go : Result) :
    whenTablesValid s go = go := by
  simp [whenTablesValid, tserrBit, h]

theorem whenTablesValid_of_bad {s : State} (h : s.tsviol ≠ 0#8) (go : Result) :
    whenTablesValid s go = .next (respond (.error .malformedTableSet) s) := by
  simp [whenTablesValid, tserrBit, h, raiseErr]

theorem whenTablesValid_next {s t : State} {go : Result} (h : whenTablesValid s go = .next t) :
    (s.tsviol ≠ 0#8 ∧ t = respond (.error .malformedTableSet) s) ∨ (s.tsviol = 0#8 ∧ go = .next t) := by
  by_cases hv : s.tsviol = 0#8
  · exact .inr ⟨hv, by rwa [whenTablesValid_of_valid hv] at h⟩
  · rw [whenTablesValid_of_bad hv] at h
    cases h
    exact .inl ⟨hv, rfl⟩

theorem stopWith_next {s t : State} {x : Stop} (h : stopWith s x = .next t) :
    ∃ e, x = .raise e ∧ t = conclude (.error e) s := by
  cases x with
  | raise e =>
    cases h
    exact ⟨e, rfl, rfl⟩
  | stuck f => cases h

theorem settle_next {s t : State} {m : Res State} (h : settle s m = .next t) :
    m = .ok t ∨ ∃ e, m = .error (.raise e) ∧ t = conclude (.error e) s := by
  cases m with
  | ok u =>
    cases h
    exact .inl rfl
  | error x =>
    obtain ⟨e, rfl, ht⟩ := stopWith_next h
    exact .inr ⟨e, rfl, ht⟩

theorem indexInRange_iff (s : State) (idx : Nat) :
    indexInRange s idx = true ↔ 1 ≤ idx ∧ idx ≤ s.tables.roundCount := by
  simp [indexInRange]

theorem present_eq_ok_iff {α : Type} (o : Option α) (a : α) : present o = .ok a ↔ o = some a := by
  cases o <;> simp [present]

theorem present_error {α : Type} {o : Option α} {x : Stop} (h : present o = .error x) :
    o = none ∧ x = .stuck .emptyRegister := by
  cases o with
  | none =>
    cases h
    exact ⟨rfl, rfl⟩
  | some a => cases h

/-! ### Commands -/

theorem execClrerr_next {s t : State} (h : execClrerr s = .next t) :
    (s.tsviol ≠ 0#8 ∧ t = respond (.error .malformedTableSet) s) ∨
      (s.tsviol = 0#8 ∧ t = respond (.ok none) { s with errmask := 0#16 }) := by
  rcases whenTablesValid_next h with h | ⟨hv, h⟩
  · exact .inl h
  · cases h
    exact .inr ⟨hv, rfl⟩

/-- RKRD answers an error with nothing else changed, or the entry it names. -/
theorem execRkrd_next {idx : Nat} {s t : State} (h : execRkrd idx s = .next t) :
    (∃ e, (e = .malformedTableSet ∨ e = .badRoundIndex ∨ e = .roundKeyMissing) ∧
        t = respond (.error e) s) ∨
      (s.tsviol = 0#8 ∧ indexInRange s idx = true ∧
        ∃ k, rkRead s idx = some k ∧ t = respond (.ok (some k)) s) := by
  rcases whenTablesValid_next h with ⟨-, rfl⟩ | ⟨hv, h⟩
  · exact .inl ⟨_, .inl rfl, rfl⟩
  · split at h
    · split at h <;> cases h
      · exact .inr ⟨hv, ‹_›, _, ‹_›, rfl⟩
      · exact .inl ⟨_, .inr (.inr rfl), rfl⟩
    · cases h
      exact .inl ⟨_, .inr (.inl rfl), rfl⟩

/-- RKWR answers an error with nothing else changed, or writes its operand into the entry it names. -/
theorem execRkwr_next {idx : Nat} {s t : State} (h : execRkwr idx s = .next t) :
    (∃ e, (e = .malformedTableSet ∨ e = .badRoundIndex ∨ e = .lengthMismatch) ∧
        t = respond (.error e) s) ∨
      (s.tsviol = 0#8 ∧ indexInRange s idx = true ∧ s.operand.length = s.tables.roundKeyBits ∧
        t = respond (.ok none) (rkWrite s idx s.operand)) := by
  rcases whenTablesValid_next h with ⟨-, rfl⟩ | ⟨hv, h⟩
  · exact .inl ⟨_, .inl rfl, rfl⟩
  · split at h
    · split at h <;> cases h
      · exact .inr ⟨hv, ‹_›, ‹_›, rfl⟩
      · exact .inl ⟨_, .inr (.inr rfl), rfl⟩
    · cases h
      exact .inl ⟨_, .inr (.inl rfl), rfl⟩

/-- KEYLOAD answers MalformedTableSet, an error of the derivation, or stores the whole derived sequence. -/
theorem execKeyload_next {s t : State} (h : execKeyload s = .next t) :
    (s.tsviol ≠ 0#8 ∧ t = respond (.error .malformedTableSet) s) ∨
      (s.tsviol = 0#8 ∧
        ((∃ e, deriveRoundKeys s.tables s.operand = .error (.raise e) ∧ t = conclude (.error e) s) ∨
          ∃ keys, deriveRoundKeys s.tables s.operand = .ok keys ∧
            t = conclude (.ok none) { s with rk := keys.map some })) := by
  rcases whenTablesValid_next h with h | ⟨hv, h⟩
  · exact .inl h
  · refine .inr ⟨hv, ?_⟩
    split at h
    · rename_i keys hk
      cases h
      exact .inr ⟨keys, hk, rfl⟩
    · rename_i x hx
      obtain ⟨e, rfl, ht⟩ := stopWith_next h
      exact .inl ⟨e, hx, ht⟩

/-- ENC and DEC answer an error with nothing else changed, or the transformed operand. -/
theorem transformCommand_next {order : List BV → List BV} {s t : State}
    (h : transformCommand order s = .next t) :
    (s.operand.length ≠ s.tables.blockBits ∧ t = conclude (.error .invalidBlockLength) s) ∨
      (s.operand.length = s.tables.blockBits ∧
        ((storedKeys s = none ∧ t = conclude (.error .roundKeyMissing) s) ∨
          ∃ keys, storedKeys s = some keys ∧
            ((∃ e, transform s.tables s.operand (order keys) = .error (.raise e) ∧
                t = conclude (.error e) s) ∨
              ∃ out, transform s.tables s.operand (order keys) = .ok out ∧
                t = conclude (.ok (some out)) s))) := by
  unfold transformCommand at h
  split at h
  · cases h
    exact .inl ⟨‹_›, rfl⟩
  · rename_i hl
    refine .inr ⟨by simpa using hl, ?_⟩
    split at h
    · cases h
      exact .inl ⟨‹_›, rfl⟩
    · rename_i keys hk
      refine .inr ⟨keys, hk, ?_⟩
      split at h
      · rename_i out ho
        cases h
        exact .inr ⟨out, ho, rfl⟩
      · rename_i x hx
        obtain ⟨e, rfl, ht⟩ := stopWith_next h
        exact .inl ⟨e, hx, ht⟩

/-- Every command that answers issues one response through `respond`; beside it only the store, and for
CLRERR the sticky flags, can change, and the sequencer commands drop the transients. -/
theorem exec_next {i : Instr} {s t : State} (h : exec i s = .next t) :
    ∃ a rk em, (t = respond a { s with rk := rk, errmask := em } ∨
        t = conclude a { s with rk := rk, errmask := em }) ∧
      (rk = s.rk ∨ ∃ d, a = .ok d) ∧ (em = s.errmask ∨ (i = .clrerr ∧ em = 0#16 ∧ a = .ok none)) := by
  cases i with
  | nop =>
    cases h
    exact ⟨.ok none, s.rk, s.errmask, .inl rfl, .inl rfl, .inl rfl⟩
  | keyload =>
    rcases execKeyload_next h with ⟨-, rfl⟩ | ⟨-, ⟨e, -, rfl⟩ | ⟨keys, -, rfl⟩⟩
    · exact ⟨_, s.rk, s.errmask, .inl rfl, .inl rfl, .inl rfl⟩
    · exact ⟨_, s.rk, s.errmask, .inr rfl, .inl rfl, .inl rfl⟩
    · exact ⟨_, keys.map some, s.errmask, .inr rfl, .inr ⟨_, rfl⟩, .inl rfl⟩
  | rkrd idx =>
    rcases execRkrd_next h with ⟨e, -, rfl⟩ | ⟨-, -, k, -, rfl⟩ <;>
      exact ⟨_, s.rk, s.errmask, .inl rfl, .inl rfl, .inl rfl⟩
  | rkwr idx =>
    rcases execRkwr_next h with ⟨e, -, rfl⟩ | ⟨-, -, -, rfl⟩
    · exact ⟨_, s.rk, s.errmask, .inl rfl, .inl rfl, .inl rfl⟩
    · exact ⟨_, _, s.errmask, .inl rfl, .inr ⟨_, rfl⟩, .inl rfl⟩
  | enc =>
    rcases whenTablesValid_next h with ⟨-, rfl⟩ | ⟨-, h⟩
    · exact ⟨_, s.rk, s.errmask, .inl rfl, .inl rfl, .inl rfl⟩
    · rcases transformCommand_next h with ⟨-, rfl⟩ | ⟨-, ⟨-, rfl⟩ | ⟨keys, -, ⟨e, -, rfl⟩ | ⟨out, -, rfl⟩⟩⟩ <;>
        exact ⟨_, s.rk, s.errmask, .inr rfl, .inl rfl, .inl rfl⟩
  | dec =>
    rcases whenTablesValid_next h with ⟨-, rfl⟩ | ⟨-, h⟩
    · exact ⟨_, s.rk, s.errmask, .inl rfl, .inl rfl, .inl rfl⟩
    · rcases transformCommand_next h with ⟨-, rfl⟩ | ⟨-, ⟨-, rfl⟩ | ⟨keys, -, ⟨e, -, rfl⟩ | ⟨out, -, rfl⟩⟩⟩ <;>
        exact ⟨_, s.rk, s.errmask, .inr rfl, .inl rfl, .inl rfl⟩
  | clrerr =>
    rcases execClrerr_next h with ⟨-, rfl⟩ | ⟨-, rfl⟩
    · exact ⟨_, s.rk, s.errmask, .inl rfl, .inl rfl, .inl rfl⟩
    · exact ⟨_, s.rk, 0#16, .inl rfl, .inl rfl, .inr ⟨rfl, rfl, rfl⟩⟩

end Sys2Proof.Machine
end

