-- ==== Sys2Proof/Laws/PerInstr.lean ====
section
/-! SUPPORT. Facts about commands as syntax, one lemma per constructor. -/

namespace Sys2Proof.Laws.ReservedFieldZero

/-- The encoding of a well-formed command has its reserved field zero (30_encoding.md R54, R58). -/
def Statement (i : Instr) : Prop := i.wellFormed = true → (encode i).extractLsb' 8 4 = 0#4

theorem nop : Statement .nop := fun _ => by decide

theorem keyload : Statement .keyload := fun _ => by decide

theorem rkrd (idx : Nat) : Statement (.rkrd idx) := by
  intro h
  have hi : idx < 256 := by simpa [Instr.wellFormed] using h
  apply BitVec.eq_of_toNat_eq
  simp [encode, BitVec.extractLsb'_toNat, Nat.shiftRight_eq_div_pow]
  omega

theorem rkwr (idx : Nat) : Statement (.rkwr idx) := by
  intro h
  have hi : idx < 256 := by simpa [Instr.wellFormed] using h
  apply BitVec.eq_of_toNat_eq
  simp [encode, BitVec.extractLsb'_toNat, Nat.shiftRight_eq_div_pow]
  omega

theorem enc : Statement .enc := fun _ => by decide

theorem dec : Statement .dec := fun _ => by decide

theorem clrerr : Statement .clrerr := fun _ => by decide

end Sys2Proof.Laws.ReservedFieldZero
end

