-- ==== Sys2Proof/Laws/Step.lean ====
section
/-! SUPPORT. What one micro-step and one step can do, said once. -/

namespace Sys2Proof.Machine

/-! ### Micro-steps -/

theorem stepKsInit_next {s t : State} (h : stepKsInit s = .next t) :
    (∃ e, t = conclude (.error e) s) ∨
      ∃ k c d, s.keyin = some k ∧ k.length = s.tables.keyBits ∧ initialHalves s.tables k = .ok (c, d) ∧
        t = { s with c := some c, d := some d, seq := .ksRound 1 } := by
  rcases settle_next h with h | ⟨e, -, ht⟩
  · refine .inr ?_
    obtain ⟨k, hk, h⟩ := (Res_bind_eq_ok _ _ _).1 h
    split at h
    · cases h
    · rename_i hl
      obtain ⟨⟨c, d⟩, hcd, h⟩ := (Res_bind_eq_ok _ _ _).1 h
      cases h
      exact ⟨k, c, d, (present_eq_ok_iff _ _).1 hk, by simpa using hl, hcd, rfl⟩
  · exact .inl ⟨e, ht⟩

theorem stepKsRound_next {r : Nat} {s t : State} (h : stepKsRound r s = .next t) :
    indexInRange s r = true ∧
      ((∃ e, t = conclude (.error e) s) ∨
        ∃ c d c' d' k, s.c = some c ∧ s.d = some d ∧ scheduleRound s.tables r c d = .ok (c', d', k) ∧
          t = if r < s.tables.roundCount then
              { rkWrite { s with c := some c', d := some d' } r k with seq := .ksRound (r + 1) }
            else conclude (.ok none) (rkWrite { s with c := some c', d := some d' } r k)) := by
  unfold stepKsRound at h
  split at h
  · refine ⟨‹_›, ?_⟩
    rcases settle_next h with h | ⟨e, -, ht⟩
    · refine .inr ?_
      obtain ⟨c, hc, h⟩ := (Res_bind_eq_ok _ _ _).1 h
      obtain ⟨d, hd, h⟩ := (Res_bind_eq_ok _ _ _).1 h
      obtain ⟨⟨c', d', k⟩, hk, h⟩ := (Res_bind_eq_ok _ _ _).1 h
      refine ⟨c, d, c', d', k, (present_eq_ok_iff _ _).1 hc, (present_eq_ok_iff _ _).1 hd, hk, ?_⟩
      dsimp only at h
      split at h <;> cases h <;> simp [*]
    · exact .inl ⟨e, ht⟩
  · cases h

theorem stepInitial_next {s t : State} (h : stepInitial s = .next t) :
    (∃ e, t = conclude (.error e) s) ∨
      ∃ b l r, s.blk = some b ∧ b.length = s.tables.blockBits ∧ (∃ keys, storedKeys s = some keys) ∧
        initialSplit s.tables b = .ok (l, r) ∧
        t = { s with l := some l, r := some r, seq := .roundExecuting 1 } := by
  rcases settle_next h with h | ⟨e, -, ht⟩
  · refine .inr ?_
    obtain ⟨b, hb, h⟩ := (Res_bind_eq_ok _ _ _).1 h
    split at h
    · cases h
    · rename_i hl
      split at h
      · cases h
      · rename_i hk
        obtain ⟨⟨l, r⟩, hlr, h⟩ := (Res_bind_eq_ok _ _ _).1 h
        cases h
        refine ⟨b, l, r, (present_eq_ok_iff _ _).1 hb, by simpa using hl, ?_, hlr, rfl⟩
        cases hs : storedKeys s with
        | none => simp [hs] at hk
        | some keys => exact ⟨keys, rfl⟩
  · exact .inl ⟨e, ht⟩

theorem stepRound_next {r : Nat} {s t : State} (h : stepRound r s = .next t) :
    indexInRange s r = true ∧
      ((∃ e, t = conclude (.error e) s) ∨
        ∃ dec k l₀ r₀ l₁ r₁, s.dirf = some dec ∧ rkRead s (keyIndex s dec r) = some k ∧ s.l = some l₀ ∧
          s.r = some r₀ ∧ feistelRound s.tables k l₀ r₀ = .ok (l₁, r₁) ∧
          t = { s with
            l := some l₁
            r := some r₁
            seq := if r < s.tables.roundCount then .roundExecuting (r + 1) else .swapped }) := by
  unfold stepRound at h
  split at h
  · refine ⟨‹_›, ?_⟩
    rcases settle_next h with h | ⟨e, -, ht⟩
    · refine .inr ?_
      obtain ⟨dec, hdec, h⟩ := (Res_bind_eq_ok _ _ _).1 h
      obtain ⟨k, hk, h⟩ := (Res_bind_eq_ok _ _ _).1 h
      obtain ⟨l₀, hl, h⟩ := (Res_bind_eq_ok _ _ _).1 h
      obtain ⟨r₀, hr, h⟩ := (Res_bind_eq_ok _ _ _).1 h
      obtain ⟨⟨l₁, r₁⟩, hlr, h⟩ := (Res_bind_eq_ok _ _ _).1 h
      cases h
      exact ⟨dec, k, l₀, r₀, l₁, r₁, (present_eq_ok_iff _ _).1 hdec, (present_eq_ok_iff _ _).1 hk,
        (present_eq_ok_iff _ _).1 hl, (present_eq_ok_iff _ _).1 hr, hlr, rfl⟩
    · exact .inl ⟨e, ht⟩
  · cases h

theorem stepSwapped_next {s t : State} (h : stepSwapped s = .next t) :
    (∃ e, t = conclude (.error e) s) ∨
      ∃ l r, s.l = some l ∧ s.r = some r ∧ t = { s with blk := some (concat r l), seq := .final } := by
  rcases settle_next h with h | ⟨e, -, ht⟩
  · refine .inr ?_
    obtain ⟨l, hl, h⟩ := (Res_bind_eq_ok _ _ _).1 h
    obtain ⟨r, hr, h⟩ := (Res_bind_eq_ok _ _ _).1 h
    cases h
    exact ⟨l, r, (present_eq_ok_iff _ _).1 hl, (present_eq_ok_iff _ _).1 hr, rfl⟩
  · exact .inl ⟨e, ht⟩

theorem stepFinal_next {s t : State} (h : stepFinal s = .next t) :
    (∃ e, t = conclude (.error e) s) ∨
      ∃ b out, s.blk = some b ∧ permute b s.tables.finalPermutation = .ok out ∧
        t = conclude (.ok (some out)) s := by
  rcases settle_next h with h | ⟨e, -, ht⟩
  · refine .inr ?_
    obtain ⟨b, hb, h⟩ := (Res_bind_eq_ok _ _ _).1 h
    obtain ⟨out, ho, h⟩ := (Res_bind_eq_ok _ _ _).1 h
    cases h
    exact ⟨b, out, (present_eq_ok_iff _ _).1 hb, ho, rfl⟩
  · exact .inl ⟨e, ht⟩

/-! ### Acceptance and steps -/

/-- The decode step of a command: it completes through `exec`, answers MalformedTableSet, or latches its
operand and starts the sequencer. -/
theorem startCommand_next {i : Instr} {s t : State} (h : startCommand i s = .next t) :
    exec i s = .next t ∨ (s.tsviol ≠ 0#8 ∧ t = respond (.error .malformedTableSet) s) ∨
      (s.tsviol = 0#8 ∧ i = .keyload ∧
        t = { noResponse s with keyin := some s.operand, seq := .ksInit }) ∨
      (s.tsviol = 0#8 ∧ ∃ dec, i = (if dec then .dec else .enc) ∧
        t = { noResponse s with blk := some s.operand, dirf := some dec, seq := .initial }) := by
  cases i with
  | nop => exact .inl h
  | rkrd idx => exact .inl h
  | rkwr idx => exact .inl h
  | clrerr => exact .inl h
  | keyload =>
    rcases whenTablesValid_next h with h | ⟨hv, h⟩
    · exact .inr (.inl h)
    · cases h
      exact .inr (.inr (.inl ⟨hv, rfl, rfl⟩))
  | enc =>
    rcases whenTablesValid_next h with h | ⟨hv, h⟩
    · exact .inr (.inl h)
    · cases h
      exact .inr (.inr (.inr ⟨hv, false, rfl, rfl⟩))
  | dec =>
    rcases whenTablesValid_next h with h | ⟨hv, h⟩
    · exact .inr (.inl h)
    · cases h
      exact .inr (.inr (.inr ⟨hv, true, rfl, rfl⟩))

/-- A step is the engine's answer to the lines, with the lines then consumed. -/
theorem step_next {s t : State} (h : step s = .next t) : ∃ u, actOnLines s = .next u ∧ t = nextLook u := by
  unfold step at h
  cases hu : actOnLines s with
  | next u =>
    rw [hu] at h
    cases h
    exact ⟨u, rfl, rfl⟩
  | fault f =>
    rw [hu] at h
    cases h
  | refused q =>
    rw [hu] at h
    cases h

/-- What the engine can do with the lines: reset, nothing, answer IllegalCommand, run or start a decoded
command, or take one micro-step. -/
theorem actOnLines_next {s u : State} (h : actOnLines s = .next u) :
    (s.line.rst = true ∧ u = State.resetOf s.tables s.inputs s.draws) ∨
      (s.line.rst = false ∧
        ((s.seq = .idle ∧ s.line.cmdValid = false ∧ u = noResponse s) ∨
          (s.seq = .idle ∧ s.line.cmdValid = true ∧ (∃ x, decode s.line.cmdWord = .error x) ∧
            u = respond (.error .illegalCommand) s) ∨
          (s.seq = .idle ∧ s.line.cmdValid = true ∧ ∃ i, decode s.line.cmdWord = .ok i ∧
            ((s.line.watch = true ∧ startCommand i s = .next u) ∨
              (s.line.watch = false ∧ exec i s = .next u))) ∨
          (s.seq ≠ .idle ∧ microStep (noResponse s) = .next u))) := by
  unfold actOnLines at h
  split at h
  · cases h
    exact .inl ⟨‹_›, rfl⟩
  · rename_i hr
    refine .inr ⟨by simpa using hr, ?_⟩
    split at h
    · rename_i hs
      split at h
      · rename_i hv
        unfold acceptCommand at h
        split at h
        · rename_i x hx
          cases h
          exact .inr (.inl ⟨hs, hv, ⟨x, hx⟩, rfl⟩)
        · rename_i i hi
          split at h
          · exact .inr (.inr (.inl ⟨hs, hv, i, hi, .inl ⟨‹_›, h⟩⟩))
          · rename_i hw
            exact .inr (.inr (.inl ⟨hs, hv, i, hi, .inr ⟨by simpa using hw, h⟩⟩))
      · rename_i hv
        cases h
        exact .inl ⟨hs, by simpa using hv, rfl⟩
    · exact .inr (.inr (.inr ⟨‹_›, h⟩))

end Sys2Proof.Machine
end

