-- ==== Sys2Proof/Tests/Slice0.lean ====
section
/-! SUPPORT. The model's own tests: words written bit by bit from the encoding, single steps with the values
of 95_test_vectors.md, and for every statement with hypotheses a concrete case that meets them. -/

namespace Sys2Proof.Tests

open Sys2Proof.Machine

/-! ### Well-formedness (WellFormed.lean's one check) -/

theorem test_index_256_is_ill_formed :
    (Instr.rkrd 256).wellFormed = false ∧ (Instr.rkwr 256).wellFormed = false ∧
      (Instr.rkrd 255).wellFormed = true ∧ (Instr.rkwr 0).wellFormed = true ∧
      Instr.nop.wellFormed = true := by decide

/-! ### Decoding: op, rsv, idx written out from R54 and R56 -/

theorem test_decode_nop : decode 0b0000000000000000#16 = .ok .nop := by decide
theorem test_decode_keyload : decode 0b0001000000000000#16 = .ok .keyload := by decide
theorem test_decode_rkrd_16 : decode 0b0010000000010000#16 = .ok (.rkrd 16) := by decide
theorem test_decode_rkrd_0 : decode 0b0010000000000000#16 = .ok (.rkrd 0) := by decide
theorem test_decode_rkwr_255 : decode 0b0011000011111111#16 = .ok (.rkwr 255) := by decide
theorem test_decode_rkwr_1 : decode 0b0011000000000001#16 = .ok (.rkwr 1) := by decide
theorem test_decode_enc : decode 0b0100000000000000#16 = .ok .enc := by decide
theorem test_decode_dec : decode 0b0101000000000000#16 = .ok .dec := by decide
theorem test_decode_clrerr : decode 0b0110000000000000#16 = .ok .clrerr := by decide

/-- The illegal words of 95_test_vectors.md section 6.1, by the case of R58 that makes them so. -/
theorem test_decode_illegal :
    [0x7000#16, 0xF000#16].map decode = [.error .reservedOpcode, .error .reservedOpcode] ∧
      [0x0100#16, 0x2101#16, 0x4800#16].map decode =
        [.error .reservedField, .error .reservedField, .error .reservedField] ∧
      [0x0001#16, 0x1001#16].map decode = [.error .strayIndex, .error .strayIndex] := by decide

/-- A row of the opcode table gives its 16 bits. -/
theorem test_table_words :
    decodeTableWord 16 0x3005 = some (.rkwr 5) ∧ decodeTableWord 16 0x7000 = none ∧
      decodeTableWord 16 0x6000 = some .clrerr := by decide

/-! ### Small states -/

/-- TOY8 right after reset, one look of lines driven. -/
def toy (p : PortIn) : State := State.resetOf toy8 [p] 0

/-- TOY8 with the round keys of 95_test_vectors.md 3.1 stored. -/
def keyed (p : PortIn) : State := { toy p with rk := [some (bv 8 0xA4), some (bv 8 0x43)] }

/-- TOY8 with only `RK[1]` stored (95_test_vectors.md 6.3, after command 3). -/
def halfKeyed (p : PortIn) : State := { toy p with rk := [some (bv 8 0xA4), none] }

/-- The table set of P4: FULL64 with `IP(1)` changed from 58 to 50. -/
def badTables : TableSet := { full64 with initialPermutation := 50 :: full64.initialPermutation.drop 1 }

/-- An instance built with a bad table set. -/
def bad (p : PortIn) : State := State.resetOf badTables [p] 0

/-- What one looks at in the state a step gives. -/
def seen {α : Type} (look : State → α) : Result → Option α
  | .next t => some (look t)
  | .fault _ => none
  | .refused _ => none

/-- Response, ERRMASK, DOUT and STATUS. -/
def visible (t : State) : Option Response × BitVec 16 × Option BV × BitVec 8 :=
  (t.rsp, t.errmask, t.dout, t.status)

/-! ### One step per command (95_test_vectors.md sections 2, 3, 6 and 7) -/

/-- P4 command 1: NOP answers OK on a bad table set. -/
theorem test_nop_on_bad_tables :
    seen visible (step (bad (issue .nop []))) = some (some (.ok none), 0x0000#16, none, 0x04#8) := by decide

/-- 6.1 command 1. -/
theorem test_nop_good : seen visible (step (toy (issue .nop []))) =
    some (some (.ok none), 0x0000#16, none, 0x00#8) := by decide

/-- 3.1: the round keys of master key h"282":10. -/
theorem test_keyload_toy8 :
    seen (fun t => (t.rk, t.rsp)) (step (toy (issue .keyload (bv 10 0x282)))) =
      some ([some (bv 8 0xA4), some (bv 8 0x43)], some (.ok none)) := by decide

/-- P3 command 3: a 9-bit key. -/
theorem test_keyload_short_key : seen visible (step (toy (issue .keyload (bv 9 0x141)))) =
    some (some (.error .invalidKeyLength), 0x0008#16, none, 0x02#8) := by decide

/-- P2 command 3. -/
theorem test_rkrd_2 : seen visible (step (keyed (issue (.rkrd 2) []))) =
    some (some (.ok (some (bv 8 0x43))), 0x0000#16, some (bv 8 0x43), 0x18#8) := by decide

/-- 6.3 commands 8 and 9: indexes 0 and roundCount + 1; 6.3 command 5: an entry that holds none. -/
theorem test_rkrd_errors :
    seen (fun t => t.errmask) (step (keyed (issue (.rkrd 0) []))) = some 0x1000#16 ∧
      seen (fun t => t.errmask) (step (keyed (issue (.rkrd 3) []))) = some 0x1000#16 ∧
      seen (fun t => t.errmask) (step (halfKeyed (issue (.rkrd 2) []))) = some 0x0800#16 := by decide

/-- 6.3 command 6: the second entry completes the store. -/
theorem test_rkwr_2 : seen (fun t => (t.rk, t.status)) (step (halfKeyed (issue (.rkwr 2) (bv 8 0x43)))) =
    some ([some (bv 8 0xA4), some (bv 8 0x43)], 0x08#8) := by decide

/-- P3 command 6: a 7-bit round key. -/
theorem test_rkwr_short : seen visible (step (toy (issue (.rkwr 1) (bv 7 0x21)))) =
    some (some (.error .lengthMismatch), 0x0020#16, none, 0x02#8) := by decide

/-- P2 command 4. -/
theorem test_enc_toy8 : seen visible (step (keyed (issue .enc (bv 8 0x72)))) =
    some (some (.ok (some (bv 8 0x77))), 0x0000#16, some (bv 8 0x77), 0x18#8) := by decide

/-- 6.3 command 4 and P3 command 1: an incomplete store; a 7-bit block, whatever the store. -/
theorem test_enc_errors :
    seen (fun t => t.errmask) (step (halfKeyed (issue .enc (bv 8 0x72)))) = some 0x0800#16 ∧
      seen (fun t => t.errmask) (step (halfKeyed (issue .enc (bv 7 0x39)))) = some 0x0004#16 := by decide

/-- P3 command 12. -/
theorem test_dec_toy8 : seen visible (step (keyed (issue .dec (bv 8 0x77)))) =
    some (some (.ok (some (bv 8 0x72))), 0x0000#16, some (bv 8 0x72), 0x18#8) := by decide

/-- P3 command 11: a 9-bit block leaves DOUT. -/
theorem test_dec_long_block :
    seen visible (step { keyed (issue .dec (bv 9 0xEE)) with dout := some (bv 8 0x77) }) =
      some (some (.error .invalidBlockLength), 0x0004#16, some (bv 8 0x77), 0x1A#8) := by decide

/-- P3 command 8. -/
theorem test_clrerr : seen visible (step { toy (issue .clrerr []) with errmask := 0x1C2C#16 }) =
    some (some (.ok none), 0x0000#16, none, 0x00#8) := by decide

/-- P4 command 6: CLRERR on a bad table set clears nothing. -/
theorem test_clrerr_on_bad_tables :
    seen visible (step { bad (issue .clrerr []) with errmask := 0x0410#16 }) =
      some (some (.error .malformedTableSet), 0x0410#16, none, 0x06#8) := by decide

/-- P3 command 4: an illegal word. -/
theorem test_illegal_word :
    seen visible (step (toy { quietLine with cmdValid := true, cmdWord := 0x7000#16 })) =
      some (some (.error .illegalCommand), 0x0400#16, none, 0x02#8) := by decide

/-- Reset abandons a command in progress (R222). -/
theorem test_reset_while_busy :
    seen (fun t => (t.seq, t.rk, t.rsp)) (step { keyed resetLine with seq := .ksRound 2 }) =
      some (.idle, [none, none], none) := by decide

/-- `withFetchWord` puts the word where the next step takes it. -/
theorem test_fetch_word :
    seen (fun t => (t.rsp, t.errmask)) (step (State.reset.withFetchWord 16 0x2001)) =
      some (some (.error .roundKeyMissing), 0x0800#16) := by decide

/-! ### The sequencer, micro-step by micro-step (95_test_vectors.md 3.1 and 3.2) -/

/-- A busy TOY8 instance while it runs KEYLOAD: after KsInit of master key h"282":10. -/
def busyKs : State := { toy quietLine with seq := .ksRound 1, c := some (bv 5 0b10000), d := some (bv 5 0b01100) }

/-- A busy TOY8 instance while it runs ENC h"72":8, before round `r`. -/
def busyEnc (r : Nat) (l h : Nat) : State :=
  { keyed quietLine with
    seq := .roundExecuting r, blk := some (bv 8 0x72), dirf := some false
    l := some (bv 4 l), r := some (bv 4 h) }

/-- 3.1: `C_0` and `D_0`. -/
theorem test_ks_init :
    seen (fun t => (t.c, t.d, t.seq))
        (microStep { toy quietLine with seq := .ksInit, keyin := some (bv 10 0x282) }) =
      some (some (bv 5 0b10000), some (bv 5 0b01100), .ksRound 1) := by decide

/-- 3.1, r = 1. -/
theorem test_ks_round : seen (fun t => (t.c, t.d, t.rk)) (microStep busyKs) =
    some (some (bv 5 0b00001), some (bv 5 0b11000), [some (bv 8 0xA4), none]) := by decide

/-- 3.2: `L_0` and `R_0`. -/
theorem test_initial :
    seen (fun t => (t.l, t.r, t.seq))
        (microStep { keyed quietLine with seq := .initial, blk := some (bv 8 0x72), dirf := some false }) =
      some (some (bv 4 0b1010), some (bv 4 0b1001), .roundExecuting 1) := by decide

/-- 3.2, rounds 1 and 2. -/
theorem test_rounds :
    seen (fun t => (t.l, t.r, t.seq)) (microStep (busyEnc 1 0b1010 0b1001)) =
        some (some (bv 4 0b1001), some (bv 4 0b1101), .roundExecuting 2) ∧
      seen (fun t => (t.l, t.r, t.seq)) (microStep (busyEnc 2 0b1001 0b1101)) =
        some (some (bv 4 0b1101), some (bv 4 0b1110), .swapped) := by decide

/-- A watched command is in progress after its decode step, and the ports say so (R229). -/
theorem test_watched_enc :
    seen (fun t => (t.seq, t.rsp, t.ports.cmdReady, t.ports.rspValid))
        (step (keyed (issueWatched .enc (bv 8 0x72)))) = some (.initial, none, false, false) := by decide

/-! ### The datapath (95_test_vectors.md sections 2.4, 4 and 5) -/

theorem test_permute :
    permute (bv 4 0b1011) [2, 4, 3, 1] = .ok (bv 4 0b0111) ∧
      permute (bv 4 0b1011) [2, 5] = .error (.raise .indexOutOfRange) ∧
      permute (bv 4 0b1011) [0, 1] = .error (.raise .indexOutOfRange) := by decide

theorem test_rotate :
    rotateLeft (bv 5 0b10011) 7 = bv 5 0b01110 ∧ rotateLeft (bv 28 0xF0CCAAF) 1 = bv 28 0xE19955F ∧
      rotateLeft [] 3 = [] := by decide

theorem test_split_xor :
    split (bv 8 0b10100101) 4 = .ok (bv 4 0b1010, bv 4 0b0101) ∧
      split (bv 3 0b101) 4 = .error (.raise .invalidWidth) ∧
      xorBits (bv 4 0b1100) (bv 4 0b1010) = .ok (bv 4 0b0110) ∧
      xorBits (bv 3 0b110) (bv 4 0b1010) = .error (.raise .lengthMismatch) := by decide

theorem test_text :
    toHex (bv 10 0b1010000010) = ['2', '8', '2'] ∧ toHex (bv 5 0b10011) = ['1', '3'] ∧
      fromHex ['a', 'b'] 8 = .ok (bv 8 0xAB) ∧ fromHex ['F', '8', '2'] 10 = .error .parseError ∧
      fromBinaryString ['0', '1', '1', '0'] 4 = .ok (bv 4 0b0110) ∧
      fromBinaryString ['0', '1', 'x', '0'] 4 = .error .parseError := by decide

/-- 2.4, first row. -/
theorem test_round_function :
    roundFunction full64 (bv 32 0xF0AAF0AA) (bv 48 0x1B02EFFC7072) = .ok (bv 32 0x234AA9BB) := by decide

/-- Section 5: two rows that fail, one that is valid, and the toy that REDUCED8 may be (R113). -/
theorem test_validate :
    validate badTables = 1 ∧ validate { toy8 with roundCount := 0, shiftSchedule := [] } = 12 ∧
      validate toy8 = 0 ∧ isReduced8 toy8r1 = true := by decide

/-- R23 on the row of section 5 that empties the store: STATUS shows TSERR alone (log entry 19). -/
theorem test_reset_status_without_rounds :
    (State.resetOf { toy8 with roundCount := 0, shiftSchedule := [] } [] 0).status = 0x04#8 ∧
      (State.resetOf badTables [] 0).status = 0x04#8 ∧ (toy quietLine).status = 0x00#8 := by decide

/-- A command line and a response line as R61 writes them. -/
theorem test_text_of_a_command :
    commandText (.rkwr 2) (bv 2 0b01) = "RKWR 2, b".toList ++ [quoteChar, '0', '1', quoteChar] ∧
      responseText (.error .badRoundIndex) = "-> BadRoundIndex".toList := by decide

/-! ### Witnesses: for each statement with hypotheses, a concrete case that meets them all -/

/-- The invariant as a check that runs, for the witnesses alone. -/
def widthIs (n : Nat) (o : Option BV) : Bool := o.any fun v => Nat.beq v.length n

/-- `seqInv` as a check that runs. -/
def seqCheck (s : State) : Bool :=
  match s.seq with
  | .idle => s.l.isNone && s.r.isNone && s.c.isNone && s.d.isNone && s.blk.isNone && s.keyin.isNone &&
      s.dirf.isNone
  | .ksInit => s.keyin.isSome
  | .ksRound r => Nat.ble 1 r && Nat.ble r s.tables.roundCount && widthIs s.tables.leftHalfBits s.c &&
      widthIs s.tables.rightHalfBits s.d
  | .initial => s.blk.isSome && s.dirf.isSome
  | .roundExecuting r => Nat.ble 1 r && Nat.ble r s.tables.roundCount && s.rk.all Option.isSome &&
      s.dirf.isSome && widthIs s.tables.halfBits s.l && widthIs s.tables.halfBits s.r
  | .swapped => widthIs s.tables.halfBits s.l && widthIs s.tables.halfBits s.r
  | .final => widthIs s.tables.blockBits s.blk

/-- The part of the invariant that can be decided as it stands, for a valid table set and no response. -/
def invCheck (s : State) : Bool :=
  Nat.beq (validate s.tables) 0 && decide (s.tsviol = 0#8) && Nat.beq s.rk.length s.tables.roundCount &&
    (s.rk.all fun o => o.all fun k => Nat.beq k.length s.tables.roundKeyBits) &&
    (s.dout.all fun v => Nat.beq v.length s.tables.blockBits) &&
    decide (s.errmask &&& neverSetBits = 0#16) && decide (s.rsp = none) && seqCheck s

theorem widthIs_sound {n : Nat} {o : Option BV} (h : widthIs n o = true) : holdsWidth o n := by
  cases o with
  | none => simp [widthIs] at h
  | some v => exact ⟨v, rfl, by simpa [widthIs] using h⟩

theorem seqCheck_sound {s : State} (h : seqCheck s = true) : seqInv s := by
  cases hs : s.seq <;> simp only [seqCheck, seqInv, hs, Bool.and_eq_true, Option.isNone_iff_eq_none,
    Option.isSome_iff_ne_none, Nat.ble_eq] at h ⊢
  · obtain ⟨⟨⟨⟨⟨⟨h1, h2⟩, h3⟩, h4⟩, h5⟩, h6⟩, h7⟩ := h
    exact ⟨h1, h2, h3, h4, h5, h6, h7⟩
  · exact h
  · exact ⟨h.1.1.1, h.1.1.2, widthIs_sound h.1.2, widthIs_sound h.2⟩
  · exact h
  · refine ⟨h.1.1.1.1.1, h.1.1.1.1.2, ?_, h.1.1.2, widthIs_sound h.1.2, widthIs_sound h.2⟩
    intro o ho
    exact Option.isSome_iff_ne_none.1 (List.all_eq_true.1 h.1.1.1.2 o ho)
  · exact ⟨widthIs_sound h.1, widthIs_sound h.2⟩
  · exact widthIs_sound h

theorem invCheck_sound {s : State} (h : invCheck s = true) : s.Inv := by
  simp only [invCheck, Bool.and_eq_true, decide_eq_true_eq] at h
  obtain ⟨⟨⟨⟨⟨⟨⟨hv, ht⟩, hl⟩, hw⟩, hd⟩, he⟩, hr⟩, hs⟩ := h
  have hv := Nat.eq_of_beq_eq_true hv
  exact
    { tsviol_eq := by rw [ht, hv]
      rk_length := Nat.eq_of_beq_eq_true hl
      rk_width := fun k hk => by simpa using List.all_eq_true.1 hw _ hk
      dout_width := fun v hv' => .inl (by simpa [hv'] using hd)
      errmask_bits := he
      bad_tables := fun hb => absurd hv hb
      seq_inv := seqCheck_sound hs
      rsp_idle := fun a ha => by rw [hr] at ha; cases ha
      rsp_data := fun v ha => by rw [hr] at ha; cases ha }

/-- States of one ENC run of TOY8 in every sequencer state it passes (95_test_vectors.md 3.2). -/
def busyAt (q : Seq) (blk : BV) : State :=
  { keyed quietLine with
    seq := q, blk := some blk, dirf := some false, keyin := some (bv 10 0x282)
    c := some (bv 5 0b10000), d := some (bv 5 0b01100), l := some (bv 4 0b1101), r := some (bv 4 0b1110) }

/-- The invariant: an idle state with the store empty and with it full, and every busy sequencer state, the
first and the last round included. -/
theorem witness_inv :
    (toy quietLine).Inv ∧ (keyed (issue .enc (bv 8 0x72))).Inv ∧
      ∀ q ∈ [Seq.ksInit, .ksRound 1, .ksRound 2, .initial, .roundExecuting 1, .roundExecuting 2, .swapped,
        .final], (busyAt q (bv 8 0x72)).Inv ∧ (busyAt q (bv 8 0x72)).seq ≠ .idle := by
  refine ⟨invCheck_sound (by decide), invCheck_sound (by decide), fun q hq => ?_⟩
  simp only [List.mem_cons, List.not_mem_nil, or_false] at hq
  rcases hq with rfl | rfl | rfl | rfl | rfl | rfl | rfl | rfl <;>
    exact ⟨invCheck_sound (by decide), by decide⟩

/-- DecodeOfEncodeIsTheCommand, LegalWordsAreEncodings: the ends of the index range. -/
theorem witness_encoding :
    (Instr.rkrd 0).wellFormed = true ∧ (Instr.rkwr 255).wellFormed = true ∧
      decode 0x20FF#16 = .ok (.rkrd 255) ∧ decode 0x6000#16 = .ok .clrerr := by decide

/-- IllegalWordsAreTheReservedOnes: each clause, at the ends of its range. -/
theorem witness_illegal :
    7 ≤ (0x7000#16).toNat / 4096 ∧ 7 ≤ (0xFFFF#16).toNat / 4096 ∧ (0x0100#16).toNat / 256 % 16 ≠ 0 ∧
      (0x6F00#16).toNat / 256 % 16 ≠ 0 ∧ (0x0001#16).toNat / 4096 = 0 ∧ (0x0001#16).toNat % 256 ≠ 0 ∧
      (0x60FF#16).toNat / 4096 = 6 ∧ (0x60FF#16).toNat % 256 ≠ 0 := by decide

/-- PermuteSelectsPositions: a table of allowed entries, and one with an entry just outside at either end. -/
theorem witness_permute :
    (∀ t ∈ [1, 4], 1 ≤ t ∧ t ≤ (bv 4 0b1011).length) ∧
      (∃ t ∈ [0, 1], t < 1 ∨ (bv 4 0b1011).length < t) ∧
      (∃ t ∈ [2, 5], t < 1 ∨ (bv 4 0b1011).length < t) := by decide

/-- SplitUndoesConcat: split positions 0, the whole length, and one beyond. -/
theorem witness_split : 0 ≤ (bv 3 5).length ∧ 3 ≤ (bv 3 5).length ∧ (bv 3 5).length < 4 := by decide

/-- XorIsBitwiseAndCancels, KeyBitsAreRoutedLinearly: unequal lengths, equal lengths, the empty vector. -/
theorem witness_xor :
    (bv 3 6).length ≠ (bv 4 10).length ∧ (bv 4 12).length = (bv 4 10).length ∧
      ([] : BV).length = ([] : BV).length := by decide

/-- RotateLeftMovesPositions: the first and the last position. -/
theorem witness_rotate : 1 ≤ 1 ∧ 1 ≤ (bv 5 19).length ∧ 1 ≤ 5 ∧ 5 ≤ (bv 5 19).length := by decide

/-- ValAndBvAreInverse: the ends of the range. -/
theorem witness_val : 0 < 2 ^ 0 ∧ 0 < 2 ^ 4 ∧ 15 < 2 ^ 4 := by decide

/-- BinaryStringRoundTrip: the first and the last position, a string that is read, a wrong length and a wrong
character. -/
theorem witness_binary :
    1 ≤ 1 ∧ 4 ≤ (bv 4 6).length ∧ fromBinaryString ['0', '1', '1', '0'] 4 = .ok (bv 4 6) ∧
    ['0', '1', '1'].length ≠ 4 ∧ 'x' ∈ ['0', '1', 'x', '0'] ∧ 'x' ≠ '0' ∧ 'x' ≠ '1' := by decide

/-- HexRoundTrip: the first and the last digit, a wrong length (section 4: 82 for 10 bits), a character that is
no digit, and digits whose padding is zero (282) and is not (F82). -/
theorem witness_hex :
    1 ≤ 1 ∧ 3 ≤ (toHex (bv 10 0x282)).length ∧ 4 * ['8', '2'].length ≠ 10 + (4 - 10 % 4) % 4 ∧
      'G' ∈ ['2', 'G', '2'] ∧
      'G' ∉ ['0', '1', '2', '3', '4', '5', '6', '7', '8', '9', 'A', 'B', 'C', 'D', 'E', 'F',
        'a', 'b', 'c', 'd', 'e', 'f'] ∧
      (bv 12 0xF82).length = 10 + (4 - 10 % 4) % 4 ∧ val ((bv 12 0xF82).take ((4 - 10 % 4) % 4)) ≠ 0 ∧
      val ((bv 12 0x282).take ((4 - 10 % 4) % 4)) = 0 := by decide

/-- ValidateReportsFirstViolation: the first and the last constraint number, each reported. -/
theorem witness_validate :
    validate badTables = 1 ∧
      validate { toy8 with keyBits := 256 } = 14 := by decide

/-- SboxAddressStaysInsideTheBox: both ends of the row and column ranges of box 1 of TOY8. -/
theorem witness_sbox :
    (toy8Box1[2 * false.toNat + false.toNat]?.bind fun row => row[val [false, false]]?).isSome = true ∧
      (toy8Box1[2 * true.toNat + true.toNat]?.bind fun row => row[val [true, true]]?) = some 2 ∧
      2 < 2 ^ toy8.sboxOutBits := by decide

/-- RoundFunctionStagesAndWidth: a half and a round key of TOY8, a round key that is too short, and the first
and the last box. -/
theorem witness_round_function :
    ValidTables toy8 ∧ (bv 4 0b1001).length = toy8.halfBits ∧ (bv 8 0xA4).length = toy8.roundKeyBits ∧
      (bv 7 0x24).length ≠ toy8.roundKeyBits ∧ toy8.substitutionBoxes[1 - 1]? = some toy8Box1 ∧
      toy8.substitutionBoxes[2 - 1]? = some toy8Box2 := by decide

/-- TransformWidth, TransformIsTheFeistelRecurrence, TransformRoundTrip: a block and round keys of TOY8, and
a block of the wrong length. -/
theorem witness_transform :
    ValidTables toy8 ∧ (bv 8 0x72).length = toy8.blockBits ∧ (bv 7 0x39).length ≠ toy8.blockBits ∧
      KeysFit toy8 [bv 8 0xA4, bv 8 0x43] ∧ [bv 8 0xA4, bv 8 0x43][1 - 1]? = some (bv 8 0xA4) ∧
      [bv 8 0xA4, bv 8 0x43][toy8.roundCount - 1]? = some (bv 8 0x43) := by
  unfold KeysFit
  decide

/-- RoundKeysComeFromCumulativeRotation: a key of the right length, one of the wrong length, and both ends of
the rounds. -/
theorem witness_round_keys :
    ValidTables toy8 ∧ (bv 10 0x282).length = toy8.keyBits ∧ (bv 9 0x141).length ≠ toy8.keyBits ∧
      1 ≤ toy8.roundCount ∧ toy8.roundCount ≤ toy8.roundCount := by decide

/-- KeyBitsAreRoutedLinearly: FULL64's two keys of section 2.6 agree on the positions PC1 selects and differ
elsewhere; a key, a mask and their XOR for TOY8. -/
theorem witness_key_bits :
    bv 64 0x123556789ABDDEF0 ≠ bv 64 0x133457799BBCDFF1 ∧
      (∀ p ∈ full64.keyPermutation1,
        bit (bv 64 0x123556789ABDDEF0) p = bit (bv 64 0x133457799BBCDFF1) p) ∧
      xorBits (bv 10 0x282) (bv 10 0x200) = .ok (bv 10 0x082) ∧
      deriveRoundKeys toy8 (bv 10 0x282) = .ok [bv 8 0xA4, bv 8 0x43] ∧
      deriveRoundKeys toy8 (bv 10 0x200) = .ok [bv 8 0x80, bv 8 0x01] := by decide

/-- FailedCommandsChangeOnlyTheFlags, StickyFlagsFollowResponses: a command that fails, and its step. -/
theorem witness_failed_command :
    (∃ t, exec (.rkrd 3) (keyed (issue (.rkrd 3) [])) = .next t ∧ t.rsp = some (.error .badRoundIndex)) ∧
      ∃ t, step (keyed (issue (.rkrd 3) [])) = .next t ∧ t.rsp = some (.error .badRoundIndex) ∧
        (keyed (issue (.rkrd 3) [])).line.rst = false :=
  ⟨⟨_, rfl, rfl⟩, ⟨_, rfl, rfl, rfl⟩⟩

/-- StickyFlagsFollowResponses: a step that answers OK and clears, and one that answers nothing. -/
theorem witness_sticky_flags :
    (∃ t, step { toy (issue .clrerr []) with errmask := 0x1C2C#16 } = .next t ∧ t.rsp = some (.ok none) ∧
        t.errmask = 0#16) ∧
      ∃ t, step (toy quietLine) = .next t ∧ t.rsp = none :=
  ⟨⟨_, rfl, rfl, rfl⟩, ⟨_, rfl, rfl⟩⟩

/-- NopAnswersOkAndWritesNothing, ClrerrClearsTheStickyFlags: idle with a good and with a bad table set, and
an OK answer of NOP on the bad one. -/
theorem witness_control :
    (toy (issue .clrerr [])).seq = .idle ∧ (toy (issue .clrerr [])).tsviol = 0#8 ∧
      (bad (issue .nop [])).seq = .idle ∧ (bad (issue .nop [])).tsviol ≠ 0#8 ∧
      seen (fun t => t.rsp) (exec .nop (bad (issue .nop []))) = some (some (.ok none)) ∧
      seen (fun t => t.status) (exec .clrerr (toy (issue .clrerr []))) = some 0x00#8 := by decide

/-- RkrdReadsOneRoundKey: indexes 0 and roundCount + 1, an entry that holds none, and the first and last
entry that hold keys. -/
theorem witness_rkrd :
    (halfKeyed quietLine).seq = .idle ∧ (halfKeyed quietLine).tsviol = 0#8 ∧ 0 < 1 ∧
      (halfKeyed quietLine).tables.roundCount < 3 ∧ (halfKeyed quietLine).rk[2 - 1]? = some none ∧
      (keyed quietLine).rk[1 - 1]? = some (some (bv 8 0xA4)) ∧
      (keyed quietLine).rk[(keyed quietLine).tables.roundCount - 1]? = some (some (bv 8 0x43)) ∧
      (keyed quietLine).seq = .idle ∧ (keyed quietLine).tsviol = 0#8 := by decide

/-- RkwrWritesOneRoundKey: an operand of the right width, one a bit too short and one a bit too long. -/
theorem witness_rkwr :
    (toy (issue (.rkwr 1) (bv 8 0xA4))).operand.length = toy8.roundKeyBits ∧
      (toy (issue (.rkwr 2) (bv 7 0x21))).operand.length ≠ toy8.roundKeyBits ∧
      (toy (issue (.rkwr 2) (bv 9 0x141))).operand.length ≠ toy8.roundKeyBits ∧
      (toy (issue (.rkwr 1) (bv 8 0xA4))).seq = .idle ∧ (toy (issue (.rkwr 1) (bv 8 0xA4))).tsviol = 0#8 ∧
      (toy (issue (.rkwr 2) (bv 7 0x21))).seq = .idle ∧ (toy (issue (.rkwr 2) (bv 7 0x21))).tsviol = 0#8 := by
  decide

/-- KeyloadStoresTheDerivedKeys, LengthIsCheckedBeforeKeyPresence: keys of the right and the wrong length. -/
theorem witness_keyload :
    ValidTables (toy (issue .keyload (bv 10 0x282))).tables ∧ (toy (issue .keyload (bv 10 0x282))).tsviol = 0#8 ∧
      (toy (issue .keyload (bv 10 0x282))).operand.length = toy8.keyBits ∧
      (toy (issue .keyload (bv 9 0x141))).operand.length ≠ toy8.keyBits := by decide

/-- EncTransformsWithKeysAscending, DecTransformsWithKeysDescending: a block and a complete store. -/
theorem witness_enc_dec :
    ValidTables (keyed (issue .enc (bv 8 0x72))).tables ∧ (keyed (issue .enc (bv 8 0x72))).tsviol = 0#8 ∧
      (keyed (issue .enc (bv 8 0x72))).operand.length = toy8.blockBits ∧
      (keyed (issue .enc (bv 8 0x72))).rk = [bv 8 0xA4, bv 8 0x43].map some ∧
      KeysFit toy8 [bv 8 0xA4, bv 8 0x43] := by
  unfold KeysFit
  decide

/-- LengthIsCheckedBeforeKeyPresence: with an incomplete store, a block of the wrong and of the right length. -/
theorem witness_check_order :
    (halfKeyed (issue .enc (bv 7 0x39))).operand.length ≠ toy8.blockBits ∧
      (halfKeyed (issue .dec (bv 9 0xEE))).operand.length ≠ toy8.blockBits ∧
      (halfKeyed (issue .dec (bv 8 0x72))).operand.length = toy8.blockBits ∧
      none ∈ (halfKeyed (issue .dec (bv 8 0x72))).rk ∧ (halfKeyed (issue .dec (bv 8 0x72))).tsviol = 0#8 := by
  decide

/-- EncAndDecUndoEachOther: ENC of h"72":8, and DEC of its answer h"77":8 on the same store. -/
theorem witness_undo :
    seen (fun t => t.rsp) (exec .enc (keyed (issue .enc (bv 8 0x72)))) = some (some (.ok (some (bv 8 0x77)))) ∧
      (keyed (issue .dec (bv 8 0x77))).operand = bv 8 0x77 ∧
      (keyed (issue .dec (bv 8 0x77))).rk = (keyed (issue .enc (bv 8 0x72))).rk ∧
      (keyed (issue .dec (bv 8 0x77))).tables = (keyed (issue .enc (bv 8 0x72))).tables ∧
      (keyed (issue .dec (bv 8 0x77))).tsviol = (keyed (issue .enc (bv 8 0x72))).tsviol := by decide

/-- TransientsDoNotInfluenceCommands: two states that differ in the transients alone. -/
theorem witness_transients :
    dropTransients (keyed (issue .enc (bv 8 0x72))) =
        dropTransients { keyed (issue .enc (bv 8 0x72)) with l := some (bv 4 9), dirf := some true } ∧
      ∃ t, exec .enc (keyed (issue .enc (bv 8 0x72))) = .next t :=
  ⟨rfl, _, rfl⟩

/-- OnlyTheirOwnCommandsWriteRkAndDout: a command that changes RK, one that changes DOUT, one that changes
neither. -/
theorem witness_rk_dout :
    seen (fun t => decide (t.rk ≠ (toy quietLine).rk))
        (exec (.rkwr 1) (toy (issue (.rkwr 1) (bv 8 0xA4)))) = some true ∧
      seen (fun t => t.rsp) (exec (.rkrd 1) (keyed (issue (.rkrd 1) []))) =
        some (some (.ok (some (bv 8 0xA4)))) ∧
      seen (fun t => t.rsp) (exec .nop (keyed (issue .nop []))) = some (some (.ok none)) := by decide

/-- OperandIsRightAligned: lengths 0 and DW, two port words that agree below `din_len`, and an operand of DW
bits. -/
theorem witness_operand :
    (issue .keyload (bv 10 0x282)).dinLen.toNat ≤ dataWidth toy8 ∧ (issue .nop []).dinLen.toNat ≤ dataWidth toy8 ∧
      (issue .enc (bv 8 0x72)).dinLen = (issue .enc (bv 8 0x72)).dinLen ∧
      0x372 % 2 ^ (issue .enc (bv 8 0x72)).dinLen.toNat =
        (issue .enc (bv 8 0x72)).din % 2 ^ (issue .enc (bv 8 0x72)).dinLen.toNat ∧
      (bv 10 0x282).length ≤ 255 ∧ (bv 10 0x282).length ≤ dataWidth toy8 := by decide

/-- PortsShowDoutAndResponses: an idle state with a result and one without, a response with data, one without
and none. -/
theorem witness_idle_ports :
    (keyed quietLine).line.rst = false ∧ (keyed quietLine).rsp = none ∧
      ({ keyed quietLine with rsp := some (.ok (some (bv 8 0x77))) } : State).rsp =
        some (.ok (some (bv 8 0x77))) ∧
      ({ keyed quietLine with rsp := some (.error .badRoundIndex) } : State).rsp =
        some (.error .badRoundIndex) ∧
    (toy quietLine).seq = .idle ∧ (toy quietLine).dout = none ∧
      ({ keyed quietLine with dout := some (bv 8 0x77) } : State).dout = some (bv 8 0x77) ∧
      (bv 8 0x77).length ≤ 255 := by decide

/-- OperandlessCommandsIgnoreTheDataLines: RKRD, NOP and CLRERR offered to an idle engine. -/
theorem witness_operandless :
    (keyed (issue (.rkrd 1) [])).line.rst = false ∧ (keyed (issue (.rkrd 1) [])).seq = .idle ∧
      (keyed (issue (.rkrd 1) [])).line.cmdValid = true ∧
      decode (keyed (issue (.rkrd 1) [])).line.cmdWord = .ok (.rkrd 1) ∧
      decode (keyed (issue .nop [])).line.cmdWord = .ok .nop ∧
      decode (keyed (issue .clrerr [])).line.cmdWord = .ok .clrerr := by decide

/-- OffersWhileBusyHaveNoEffect: a busy engine and lines with a command on them. -/
theorem witness_busy_offer :
    busyKs.seq ≠ .idle ∧ busyKs.line.rst = false ∧ (issue .clrerr []).rst = false := by decide

/-- StepRunsTheDecodedCommand: a command on the lines of an idle engine, the host not watching and watching,
quiet lines, and a busy engine. -/
theorem witness_step :
    (keyed (issueWatched .enc (bv 8 0x72))).line.watch = true ∧
      decode (keyed (issueWatched .enc (bv 8 0x72))).line.cmdWord = .ok .enc ∧
      (toy quietLine).line.cmdValid = false ∧ busyKs.seq ≠ .idle ∧ busyKs.line.rst = false ∧
    (keyed (issue .enc (bv 8 0x72))).line.rst = false ∧ (keyed (issue .enc (bv 8 0x72))).seq = .idle ∧
      (keyed (issue .enc (bv 8 0x72))).line.cmdValid = true ∧
      (keyed (issue .enc (bv 8 0x72))).line.watch = false ∧
      decode (keyed (issue .enc (bv 8 0x72))).line.cmdWord = .ok .enc := by decide

/-- IllegalWordsChangeOnlyTheFlags: an illegal word on the lines of an idle engine. -/
theorem witness_illegal_word :
    (toy { quietLine with cmdValid := true, cmdWord := 0x7000#16 }).line.rst = false ∧
      (toy { quietLine with cmdValid := true, cmdWord := 0x7000#16 }).seq = .idle ∧
      (toy { quietLine with cmdValid := true, cmdWord := 0x7000#16 }).line.cmdValid = true ∧
      decode (toy { quietLine with cmdValid := true, cmdWord := 0x7000#16 }).line.cmdWord =
        .error .reservedOpcode := by decide

/-- BadTableSetRefusesAllWork: a bad table set, a command offered to its instance, and its step. -/
theorem witness_bad_tables :
    ¬ ValidTables badTables ∧ (bad (issue .enc [])).line.rst = false ∧ (bad (issue .enc [])).seq = .idle ∧
      (bad (issue .enc [])).line.cmdValid = true ∧ decode (bad (issue .enc [])).line.cmdWord = .ok .enc ∧
      Instr.enc ≠ Instr.nop ∧ (bad (issue .enc [])).tsviol ≠ 0#8 ∧
      (bad (issue .enc [])).tsviol = BitVec.ofNat 8 (validate (bad (issue .enc [])).tables) ∧
      (seen (fun t => t.tsviol) (step (bad (issue .enc [])))).isSome = true := by decide

/-- ResetValues: a table set that passes validation and one that does not. -/
theorem witness_reset_values : ValidTables toy8 ∧ ¬ ValidTables badTables := by decide

/-- ResetAbandonsEverything: reset asserted while a command is in progress. -/
theorem witness_reset : ({ keyed resetLine with seq := .roundExecuting 2 } : State).line.rst = true := by decide

/-- NoStepChangesTheTableSet, OneResponsePerCommand: a step of a busy engine that ends its command, one that
does not, and one of an idle engine. -/
theorem witness_steps :
    (busyAt .final (bv 8 0xED)).line.rst = false ∧
      seen (fun t => t.rsp) (step (busyAt .final (bv 8 0xED))) = some (some (.ok (some (bv 8 0x77)))) ∧
      seen (fun t => (t.rsp, t.seq)) (step (busyAt .swapped (bv 8 0x72))) = some (none, .final) ∧
      seen (fun t => t.rsp) (step (keyed (issue .nop []))) = some (some (.ok none)) := by decide

/-- DecodeStepLatchesOperands: a good table set. -/
theorem witness_decode_step : (toy (issue .keyload (bv 10 0x282))).tsviol = 0#8 := by decide

/-- KeyScheduleMicroSteps: KsInit with a key of the right and of the wrong length. -/
theorem witness_ks_init :
    (busyAt .ksInit []).seq = .ksInit ∧ (busyAt .ksInit []).keyin = some (bv 10 0x282) ∧
      (bv 10 0x282).length = (busyAt .ksInit []).tables.keyBits ∧
      permute (bv 10 0x282) toy8.keyPermutation1 = .ok (bv 10 0b1000001100) ∧
      split (bv 10 0b1000001100) toy8.leftHalfBits = .ok (bv 5 0b10000, bv 5 0b01100) ∧
      ({ busyAt .ksInit [] with keyin := some (bv 9 0x141) } : State).keyin = some (bv 9 0x141) ∧
      (bv 9 0x141).length ≠ toy8.keyBits := by decide

/-- KeyScheduleMicroSteps: KsRound in a round before the last and in the last one. -/
theorem witness_ks_round :
    (busyAt (.ksRound 1) []).seq = .ksRound 1 ∧ 1 < toy8.roundCount ∧ 2 = toy8.roundCount ∧
      (busyAt (.ksRound 1) []).c = some (bv 5 0b10000) ∧ (busyAt (.ksRound 1) []).d = some (bv 5 0b01100) ∧
      toy8.shiftSchedule[1 - 1]? = some 1 ∧ toy8.shiftSchedule[2 - 1]? = some 2 ∧
      permute (rotateLeft (bv 5 0b10000) 1 ++ rotateLeft (bv 5 0b01100) 1) toy8.keyPermutation2 =
        .ok (bv 8 0xA4) ∧
      permute (rotateLeft (bv 5 0b00001) 2 ++ rotateLeft (bv 5 0b11000) 2) toy8.keyPermutation2 =
        .ok (bv 8 0x43) := by decide

/-- InitialMicroStep: each clause. -/
theorem witness_initial :
    (busyAt .initial (bv 8 0x72)).seq = .initial ∧ (busyAt .initial (bv 8 0x72)).blk = some (bv 8 0x72) ∧
      (bv 8 0x72).length = toy8.blockBits ∧ (bv 7 0x39).length ≠ toy8.blockBits ∧
      none ∉ (busyAt .initial (bv 8 0x72)).rk ∧ none ∈ (halfKeyed quietLine).rk ∧
      permute (bv 8 0x72) toy8.initialPermutation = .ok (bv 8 0b10101001) ∧
      split (bv 8 0b10101001) toy8.halfBits = .ok (bv 4 0b1010, bv 4 0b1001) := by decide

/-- RoundMicroStep: the first and the last round, for both directions. -/
theorem witness_round :
    (busyEnc 1 0b1010 0b1001).seq = .roundExecuting 1 ∧ (busyEnc 1 0b1010 0b1001).dirf = some false ∧
      (busyEnc 1 0b1010 0b1001).rk[1 - 1]? = some (some (bv 8 0xA4)) ∧
      (busyEnc 2 0b1001 0b1101).rk[2 - 1]? = some (some (bv 8 0x43)) ∧
      (busyEnc 1 0b1010 0b1001).rk[toy8.roundCount - 1]? = some (some (bv 8 0x43)) ∧
      (busyEnc 2 0b1001 0b1101).rk[toy8.roundCount - 2]? = some (some (bv 8 0xA4)) ∧
      (busyEnc 1 0b1010 0b1001).l = some (bv 4 0b1010) ∧ (busyEnc 1 0b1010 0b1001).r = some (bv 4 0b1001) ∧
      roundFunction toy8 (bv 4 0b1001) (bv 8 0xA4) = .ok (bv 4 0b0111) ∧
      xorBits (bv 4 0b1010) (bv 4 0b0111) = .ok (bv 4 0b1101) := by decide

/-- SwappedAndFinalMicroSteps: 95_test_vectors.md 3.2. -/
theorem witness_swapped_final :
    (busyAt .swapped []).seq = .swapped ∧ (busyAt .swapped []).l = some (bv 4 0b1101) ∧
      (busyAt .swapped []).r = some (bv 4 0b1110) ∧ (busyAt .final (bv 8 0xED)).seq = .final ∧
      (busyAt .final (bv 8 0xED)).blk = some (bv 8 0xED) ∧
      permute (bv 8 0xED) toy8.finalPermutation = .ok (bv 8 0x77) := by decide

/-- SequencerTransitions, StepKeepsTheInvariant, EveryCommandTerminates, NoReachableStepStops, BusyPorts: every
state of `witness_inv` takes its micro-step. -/
theorem witness_micro_steps :
    ∀ q ∈ [Seq.ksInit, .ksRound 1, .ksRound 2, .initial, .roundExecuting 1, .roundExecuting 2, .swapped, .final],
      (seen (fun t => t.seq) (microStep (busyAt q (bv 8 0x72)))).isSome = true := by decide

/-- InternalErrorsAreUnreachable: a state with the invariant whose step answers LengthMismatch. -/
theorem witness_length_mismatch :
    (toy (issue (.rkwr 1) (bv 7 0x21))).Inv ∧
      seen (fun t => t.rsp) (step (toy (issue (.rkwr 1) (bv 7 0x21)))) =
        some (some (.error .lengthMismatch)) :=
  ⟨invCheck_sound (by decide), by decide⟩

end Sys2Proof.Tests
end

section
/-! SUPPORT. Validation implies the constraints V1 to V14 in the words of R94 to R107. -/

namespace Sys2Proof.Machine

theorem expansionCheck_iff (T : TableSet) : v6 T = true ↔ Constraint T 6 := by
  simp [v6, Constraint, entriesWithin_iff]

theorem boxShapeCheck_iff (T : TableSet) : v7 T = true ↔ Constraint T 7 := by
  simp [v7, Constraint, boxCount, chunkBits, columns, Nat.dvd_iff_mod_eq_zero, and_assoc]

theorem boxEntryCheck_iff (T : TableSet) : v11 T = true ↔ Constraint T 11 := by
  simp [v11, Constraint, boxCount, and_assoc]

/-- The inverse check reads, at each entry `t` of its list, the position of that entry back (R106). -/
theorem invertsFrom_getElem {ip fp : List Nat} {i : Nat} (h : invertsFrom ip i fp = true) {j t : Nat}
    (ht : fp[j]? = some t) : tabRead ip t = some (i + j) := by
  induction fp generalizing i j with
  | nil => simp at ht
  | cons u us ih =>
    rw [invertsFrom, Bool.and_eq_true] at h
    obtain ⟨hu, hus⟩ := h
    cases j with
    | zero =>
      obtain rfl : u = t := by simpa using ht
      split at hu
      · rename_i hk
        rw [hk, Nat.eq_of_beq_eq_true hu, Nat.add_zero]
      · cases hu
    | succ j =>
      rw [ih hus (by simpa using ht), Nat.add_assoc, Nat.add_comm 1]

theorem tabRead_eq_some {tab : List Nat} {t j : Nat} (h : tabRead tab t = some j) :
    1 ≤ t ∧ tab[t - 1]? = some j := by
  unfold tabRead at h
  split at h
  · exact ⟨‹_›, h⟩
  · cases h

theorem inverseCheck_sound {T : TableSet} (hlen : T.finalPermutation.length = T.blockBits)
    (h : v13 T = true) : Constraint T 13 := by
  intro i hi hib
  have hj : T.finalPermutation[i - 1]? = some T.finalPermutation[i - 1] := List.getElem?_eq_getElem (by omega)
  obtain ⟨h1, hread⟩ := tabRead_eq_some (invertsFrom_getElem h hj)
  refine ⟨_, hj, h1, ?_⟩
  rw [hread, show 1 + (i - 1) = i by omega]

/-- A valid table set satisfies every constraint of R94 to R107. -/
theorem constraint_of_valid {T : TableSet} (h : ValidTables T) : ∀ n, Constraint T n := by
  obtain ⟨h1, h2, h3, h4, h5, h6, h7, h8, h9, h10, h11, h12, h13, h14⟩ := (validate_eq_zero_iff T).1 h
  have hfp := (isSelection_iff _ _ _).1 h2
  intro n
  match n with
  | 1 => exact (isSelection_iff _ _ _).1 h1
  | 2 => exact hfp
  | 3 => exact (isSelection_iff _ _ _).1 h3
  | 4 => exact (isSelection_iff _ _ _).1 h4
  | 5 => exact Nat.eq_of_beq_eq_true h5
  | 6 => exact (expansionCheck_iff T).1 h6
  | 7 => exact (boxShapeCheck_iff T).1 h7
  | 8 => exact (isSelection_iff _ _ _).1 h8
  | 9 => simpa [Constraint, v9] using h9
  | 10 => exact Nat.eq_of_beq_eq_true h10
  | 11 => exact (boxEntryCheck_iff T).1 h11
  | 12 => simpa [Constraint, v12, and_assoc] using h12
  | 13 => exact inverseCheck_sound hfp.1 h13
  | 14 => simpa [Constraint, v14, and_assoc] using h14
  | 0 | _ + 15 => exact trivial

end Sys2Proof.Machine
end

section
/-! SUPPORT. With a valid table set and operands of the right widths every datapath operation gives a value,
of the width the spec states: no error of R190 and no fault is possible inside it (R108, R192). -/

namespace Sys2Proof.Machine

/-! ### Selecting and splitting -/

theorem permute_total {v : BV} {tab : List Nat} {n : Nat} (hv : v.length = n)
    (h : ∀ t ∈ tab, 1 ≤ t ∧ t ≤ n) : ∃ out, permute v tab = .ok out ∧ out.length = tab.length :=
  ⟨_, permute_of_within (hv ▸ h), List.length_map _⟩

theorem split_total {v : BV} {n m : Nat} (hv : v.length = n + m) :
    ∃ a b, split v n = .ok (a, b) ∧ a.length = n ∧ b.length = m :=
  ⟨_, _, split_of_le (by omega), by simp [hv], by simp [hv]⟩

theorem xorBits_total {a b : BV} {n : Nat} (ha : a.length = n) (hb : b.length = n) :
    ∃ out, xorBits a b = .ok out ∧ out.length = n :=
  ⟨_, xorBits_of_length (ha.trans hb.symm), by simp [ha, hb]⟩

/-! ### Key schedule -/

/-- R120: a master key of `keyBits` bits gives the two halves. -/
theorem initialHalves_total {T : TableSet} (hT : ValidTables T) {k : BV} (hk : k.length = T.keyBits) :
    ∃ c d, initialHalves T k = .ok (c, d) ∧ c.length = T.leftHalfBits ∧ d.length = T.rightHalfBits := by
  obtain ⟨hlen, hin, -⟩ : Selects _ _ _ := constraint_of_valid hT 3
  obtain ⟨cd, hcd, hcdl⟩ := permute_total hk hin
  obtain ⟨c, d, hs, hc, hd⟩ := split_total (hcdl.trans hlen)
  exact ⟨c, d, by simp [initialHalves, hcd, hs], hc, hd⟩

theorem shiftAmount_total {T : TableSet} (hT : ValidTables T) {r : Nat} (h1 : 1 ≤ r) (h2 : r ≤ T.roundCount) :
    ∃ n, shiftAmount T r = .ok n := by
  have hlen : T.shiftSchedule.length = T.roundCount := constraint_of_valid hT 5
  exact ⟨T.shiftSchedule[r - 1], by simp [shiftAmount, tabRead, h1, show r - 1 < T.shiftSchedule.length by omega]⟩

/-- R120, R124: one round keeps the widths of the halves and gives a round key of `roundKeyBits` bits. -/
theorem scheduleRound_total {T : TableSet} (hT : ValidTables T) {r : Nat} (h1 : 1 ≤ r) (h2 : r ≤ T.roundCount)
    {c d : BV} (hc : c.length = T.leftHalfBits) (hd : d.length = T.rightHalfBits) :
    ∃ c' d' k, scheduleRound T r c d = .ok (c', d', k) ∧ c'.length = T.leftHalfBits ∧
      d'.length = T.rightHalfBits ∧ k.length = T.roundKeyBits := by
  obtain ⟨hlen, hin, -⟩ : Selects _ _ _ := constraint_of_valid hT 4
  obtain ⟨n, hn⟩ := shiftAmount_total hT h1 h2
  have hc' : (rotateLeft c n).length = T.leftHalfBits := (rotateLeft_length c n).trans hc
  have hd' : (rotateLeft d n).length = T.rightHalfBits := (rotateLeft_length d n).trans hd
  obtain ⟨k, hk, hkl⟩ := permute_total (v := concat (rotateLeft c n) (rotateLeft d n))
    (by simp [concat, hc', hd']) hin
  exact ⟨_, _, k, by simp [scheduleRound, hn, hk], hc', hd', hkl.trans hlen⟩

theorem scheduleRounds_total {T : TableSet} (hT : ValidTables T) {rs : List Nat}
    (hrs : ∀ r ∈ rs, 1 ≤ r ∧ r ≤ T.roundCount) {c d : BV} (hc : c.length = T.leftHalfBits)
    (hd : d.length = T.rightHalfBits) :
    ∃ ks, scheduleRounds T rs c d = .ok ks ∧ ks.length = rs.length ∧ ∀ k ∈ ks, k.length = T.roundKeyBits := by
  induction rs generalizing c d with
  | nil => exact ⟨[], rfl, rfl, by simp⟩
  | cons r rs ih =>
    obtain ⟨⟨h1, h2⟩, hrs⟩ := List.forall_mem_cons.1 hrs
    obtain ⟨c', d', k, hk, hc', hd', hkl⟩ := scheduleRound_total hT h1 h2 hc hd
    obtain ⟨ks, hks, hlen, hw⟩ := ih hrs hc' hd'
    exact ⟨k :: ks, by simp [scheduleRounds, hk, hks], by simp [hlen], List.forall_mem_cons.2 ⟨hkl, hw⟩⟩

/-- R120, R121: the derived sequence fits the table set. -/
theorem deriveRoundKeys_total {T : TableSet} (hT : ValidTables T) {k : BV} (hk : k.length = T.keyBits) :
    ∃ ks, deriveRoundKeys T k = .ok ks ∧ KeysFit T ks := by
  obtain ⟨c, d, hcd, hc, hd⟩ := initialHalves_total hT hk
  obtain ⟨ks, hks, hlen, hw⟩ := scheduleRounds_total hT (rs := List.range' 1 T.roundCount)
    (fun r hr => by have := List.mem_range'_1.1 hr; omega) hc hd
  exact ⟨ks, by simp [deriveRoundKeys, hk, hcd, hks], hlen.trans (List.length_range' ..), hw⟩

theorem deriveRoundKeys_of_length_ne {T : TableSet} {k : BV} (hk : k.length ≠ T.keyBits) :
    deriveRoundKeys T k = .error (.raise .invalidKeyLength) := if_pos hk

/-! ### Round function -/

theorem partitionChunks_total {T : TableSet} (hT : ValidTables T) {mixed : BV}
    (hm : mixed.length = T.expandedBits) :
    ∃ chunks, partitionChunks T mixed = .ok chunks ∧ chunks.length = boxCount T ∧
      ∀ chunk ∈ chunks, chunk.length = chunkBits T := by
  obtain ⟨hpos, hdvd, -⟩ := constraint_of_valid hT 7
  have hmul : mixed.length = boxCount T * chunkBits T := hm.trans (Nat.mul_div_cancel' hdvd).symm
  have hw : mixed.length / boxCount T = chunkBits T := by rw [hm, chunkBits]
  refine ⟨chunksOf (chunkBits T) (boxCount T) mixed, ?_, chunksOf_length _ _ _,
    fun chunk hc => length_of_mem_chunksOf hmul hc⟩
  rw [partitionChunks, if_neg, hw]
  rintro (h0 | hmod)
  · exact absurd h0 (Nat.one_le_iff_ne_zero.1 hpos)
  · exact hmod (by rw [hmul, Nat.mul_mod_right])

theorem rowOf_lt (chunk : BV) : rowOf chunk < 4 := by
  have h1 := Bool.toNat_lt (bit chunk 1)
  have h2 := Bool.toNat_lt (bit chunk chunk.length)
  unfold rowOf
  omega

theorem columnOf_lt (chunk : BV) : columnOf chunk < 2 ^ (chunk.length - 2) := by
  have h := val_lt ((chunk.drop 1).take (chunk.length - 2))
  rwa [List.length_take, List.length_drop, Nat.min_eq_left (by omega)] at h

/-- R144: the address of a chunk of `w ≥ 2` bits lies inside a box of 4 rows of `2 ^ (w − 2)` entries. -/
theorem sboxLookup_total {n w : Nat} {box : List (List Nat)} {chunk : BV} (hw : chunk.length = w)
    (h2 : 2 ≤ w) (hbox : box.length = 4) (hrow : ∀ row ∈ box, row.length = 2 ^ (w - 2))
    (hentry : ∀ row ∈ box, ∀ x ∈ row, x < 2 ^ n) :
    ∃ out, sboxLookup n box chunk = .ok out ∧ out.length = n := by
  have hr : rowOf chunk < box.length := hbox ▸ rowOf_lt chunk
  have hmem : box[rowOf chunk] ∈ box := List.getElem_mem hr
  have hc : columnOf chunk < box[rowOf chunk].length := by
    rw [hrow _ hmem, ← hw]
    exact columnOf_lt chunk
  have hx : box[rowOf chunk][columnOf chunk] < 2 ^ n := hentry _ hmem _ (List.getElem_mem hc)
  refine ⟨bv n box[rowOf chunk][columnOf chunk], ?_, bv_length _ _⟩
  simp [sboxLookup, show ¬ chunk.length < 2 by omega, List.getElem?_eq_getElem hr,
    List.getElem?_eq_getElem hc, hx]

theorem substitute_total {n w : Nat} (h2 : 2 ≤ w) {boxes : List (List (List Nat))} {chunks : List BV}
    (hlen : chunks.length = boxes.length) (hw : ∀ chunk ∈ chunks, chunk.length = w)
    (hbox : ∀ box ∈ boxes, box.length = 4 ∧ ∀ row ∈ box, row.length = 2 ^ (w - 2))
    (hentry : ∀ box ∈ boxes, ∀ row ∈ box, ∀ x ∈ row, x < 2 ^ n) :
    ∃ out, substitute n boxes chunks = .ok out ∧ out.length = boxes.length * n := by
  induction boxes generalizing chunks with
  | nil => exact ⟨[], by simp [substitute], by simp⟩
  | cons box boxes ih =>
    cases chunks with
    | nil => simp at hlen
    | cons chunk chunks =>
      obtain ⟨hw, hws⟩ := List.forall_mem_cons.1 hw
      obtain ⟨⟨h4, hrow⟩, hboxes⟩ := List.forall_mem_cons.1 hbox
      obtain ⟨hx, hxs⟩ := List.forall_mem_cons.1 hentry
      obtain ⟨out, ho, hol⟩ := sboxLookup_total hw h2 h4 hrow hx
      obtain ⟨rest, hr, hrl⟩ := ih (by simpa using hlen) hws hboxes hxs
      exact ⟨concat out rest, by simp [substitute, ho, hr], by simp [concat, hol, hrl]; ring⟩

theorem outputStage_total {T : TableSet} (hT : ValidTables T) {sout : BV} (hs : sout.length = T.halfBits) :
    ∃ out, outputStage T sout = .ok out ∧ out.length = T.halfBits := by
  obtain ⟨hlen, hin, -⟩ : Selects _ _ _ := constraint_of_valid hT 8
  obtain ⟨out, ho, hol⟩ := permute_total hs hin
  exact ⟨out, by simp [outputStage, ho, hol, hlen], hol.trans hlen⟩

/-- R140: the stages of the round function fit together. -/
theorem roundFunction_total {T : TableSet} (hT : ValidTables T) {half key : BV}
    (hh : half.length = T.halfBits) (hk : key.length = T.roundKeyBits) :
    ∃ out, roundFunction T half key = .ok out ∧ out.length = T.halfBits := by
  obtain ⟨hel, hein⟩ := constraint_of_valid hT 6
  obtain ⟨-, -, h2, hbox⟩ := constraint_of_valid hT 7
  have hkw : T.roundKeyBits = T.expandedBits := constraint_of_valid hT 10
  obtain ⟨-, hsum, hentry⟩ := constraint_of_valid hT 11
  obtain ⟨expanded, he, hexl⟩ := permute_total hh hein
  obtain ⟨mixed, hm, hml⟩ := xorBits_total (hexl.trans hel) (hk.trans hkw)
  obtain ⟨chunks, hc, hcl, hcw⟩ := partitionChunks_total hT hml
  obtain ⟨sout, hs, hsl⟩ := substitute_total h2 hcl hcw hbox hentry
  obtain ⟨out, ho, hol⟩ := outputStage_total hT (hsl.trans hsum)
  exact ⟨out, by simp [roundFunction, he, hm, hc, hs, ho], hol⟩

/-! ### Cipher engine -/

theorem initialSplit_total {T : TableSet} (hT : ValidTables T) {b : BV} (hb : b.length = T.blockBits) :
    ∃ l r, initialSplit T b = .ok (l, r) ∧ l.length = T.halfBits ∧ r.length = T.halfBits := by
  obtain ⟨hlen, hin, -⟩ : Selects _ _ _ := constraint_of_valid hT 1
  obtain ⟨-, hhalf⟩ := constraint_of_valid hT 9
  obtain ⟨p, hp, hpl⟩ := permute_total hb hin
  obtain ⟨l, r, hs, hl, hr⟩ := split_total (v := p) (n := T.halfBits) (m := T.halfBits) (by omega)
  exact ⟨l, r, by simp [initialSplit, hp, hs], hl, hr⟩

theorem feistelRound_total {T : TableSet} (hT : ValidTables T) {k l r : BV} (hk : k.length = T.roundKeyBits)
    (hl : l.length = T.halfBits) (hr : r.length = T.halfBits) :
    ∃ l' r', feistelRound T k l r = .ok (l', r') ∧ l'.length = T.halfBits ∧ r'.length = T.halfBits := by
  obtain ⟨f, hf, hfl⟩ := roundFunction_total hT hr hk
  obtain ⟨x, hx, hxl⟩ := xorBits_total hl hfl
  exact ⟨r, x, by simp [feistelRound, hf, hx], hr, hxl⟩

theorem feistelRounds_total {T : TableSet} (hT : ValidTables T) {ks : List BV}
    (hks : ∀ k ∈ ks, k.length = T.roundKeyBits) {l r : BV} (hl : l.length = T.halfBits)
    (hr : r.length = T.halfBits) :
    ∃ l' r', feistelRounds T ks l r = .ok (l', r') ∧ l'.length = T.halfBits ∧ r'.length = T.halfBits := by
  induction ks generalizing l r with
  | nil => exact ⟨l, r, rfl, hl, hr⟩
  | cons k ks ih =>
    obtain ⟨hk, hks⟩ := List.forall_mem_cons.1 hks
    obtain ⟨l₁, r₁, h₁, hl₁, hr₁⟩ := feistelRound_total hT hk hl hr
    obtain ⟨l₂, r₂, h₂, hl₂, hr₂⟩ := ih hks hl₁ hr₁
    exact ⟨l₂, r₂, by simp [feistelRounds, h₁, h₂], hl₂, hr₂⟩

theorem finalPermutation_total {T : TableSet} (hT : ValidTables T) {b : BV} (hb : b.length = T.blockBits) :
    ∃ out, permute b T.finalPermutation = .ok out ∧ out.length = T.blockBits := by
  obtain ⟨hlen, hin, -⟩ : Selects _ _ _ := constraint_of_valid hT 2
  obtain ⟨out, ho, hol⟩ := permute_total hb hin
  exact ⟨out, ho, hol.trans hlen⟩

theorem length_concat_halves {T : TableSet} (hT : ValidTables T) {l r : BV} (hl : l.length = T.halfBits)
    (hr : r.length = T.halfBits) : (concat r l).length = T.blockBits := by
  obtain ⟨-, hhalf⟩ := constraint_of_valid hT 9
  simp [concat]
  omega

/-- R160: a block of `blockBits` bits is transformed to one, whatever the number of round keys. -/
theorem transform_total {T : TableSet} (hT : ValidTables T) {b : BV} (hb : b.length = T.blockBits)
    {ks : List BV} (hks : ∀ k ∈ ks, k.length = T.roundKeyBits) :
    ∃ out, transform T b ks = .ok out ∧ out.length = T.blockBits := by
  obtain ⟨l₀, r₀, h₀, hl₀, hr₀⟩ := initialSplit_total hT hb
  obtain ⟨l, r, h, hl, hr⟩ := feistelRounds_total hT hks hl₀ hr₀
  obtain ⟨out, ho, hol⟩ := finalPermutation_total hT (length_concat_halves hT hl hr)
  exact ⟨out, by simp [transform, hb, h₀, h, ho], hol⟩

end Sys2Proof.Machine
end

section
/-! SUPPORT. The invariant at reset (R23, R220) and along every step. The clauses about registers that outlive
a command stand apart (`StoredInv`), so that a command's proof is about its response and its store alone. -/

namespace Sys2Proof.Machine

/-! ### The part of the invariant that outlives a command -/

/-- The clauses of `State.Inv` that speak neither of the sequencer nor of the response just issued. -/
structure StoredInv (s : State) : Prop where
  tsviol_eq : s.tsviol = BitVec.ofNat 8 (validate s.tables)
  rk_length : s.rk.length = s.tables.roundCount
  rk_width : ∀ k, some k ∈ s.rk → k.length = s.tables.roundKeyBits
  dout_width : ∀ v, s.dout = some v → v.length = s.tables.blockBits ∨ v.length = s.tables.roundKeyBits
  errmask_bits : s.errmask &&& neverSetBits = 0#16
  bad_tables : ¬ ValidTables s.tables → s.dout = none ∧ ∀ o ∈ s.rk, o = none

theorem State.Inv.stored {s : State} (h : s.Inv) : StoredInv s :=
  { tsviol_eq := h.tsviol_eq
    rk_length := h.rk_length
    rk_width := h.rk_width
    dout_width := h.dout_width
    errmask_bits := h.errmask_bits
    bad_tables := fun hb => (h.bad_tables hb).2 }

/-- `StoredInv` reads five fields only. -/
theorem StoredInv.of_eq {s t : State} (h : StoredInv s) (htables : t.tables = s.tables)
    (htsviol : t.tsviol = s.tsviol) (hrk : t.rk = s.rk) (hdout : t.dout = s.dout)
    (herr : t.errmask = s.errmask) : StoredInv t := by
  obtain ⟨h1, h2, h3, h4, h5, h6⟩ := h
  constructor <;> simpa only [htables, htsviol, hrk, hdout, herr]

theorem StoredInv.tsviol_eq_zero_iff {s : State} (h : StoredInv s) : s.tsviol = 0#8 ↔ ValidTables s.tables := by
  rw [h.tsviol_eq, tsviol_word_eq_zero_iff]

/-- With a valid table set a store of the right length and widths may replace the old one. -/
theorem StoredInv.with_rk {s : State} (h : StoredInv s) (hT : ValidTables s.tables) {rk : List (Option BV)}
    (hlen : rk.length = s.tables.roundCount) (hw : ∀ k, some k ∈ rk → k.length = s.tables.roundKeyBits) :
    StoredInv { s with rk := rk } :=
  { h with
    rk_length := hlen
    rk_width := hw
    bad_tables := fun hb => absurd hT hb }

theorem StoredInv.rkWrite {s : State} (h : StoredInv s) (hT : ValidTables s.tables) {i : Nat} {k : BV}
    (hk : k.length = s.tables.roundKeyBits) : StoredInv (rkWrite s i k) := by
  refine h.with_rk hT ((List.length_set ..).trans h.rk_length) fun k' hk' => ?_
  rcases List.mem_or_eq_of_mem_set hk' with hmem | heq
  · exact h.rk_width k' hmem
  · rw [Option.some.inj heq]
    exact hk

theorem StoredInv.keysFit {s : State} (h : StoredInv s) {keys : List BV} (hk : storedKeys s = some keys) :
    KeysFit s.tables keys := by
  have hrk : s.rk = keys.map some := (allPresent_eq_some_iff _ _).1 hk
  refine ⟨by rw [← h.rk_length, hrk, List.length_map], fun k hmem => h.rk_width k ?_⟩
  rw [hrk]
  exact List.mem_map_of_mem hmem

/-- `rkRead` reads an entry of the store. -/
theorem mem_of_rkRead {s : State} {i : Nat} {k : BV} (h : rkRead s i = some k) : some k ∈ s.rk := by
  rw [rkRead, Option.join_eq_some_iff] at h
  exact List.mem_of_getElem? h

/-- In a complete store every entry in range can be read. -/
theorem rkRead_of_complete {s : State} (hc : storeComplete s) (hlen : s.rk.length = s.tables.roundCount)
    {i : Nat} (h1 : 1 ≤ i) (h2 : i ≤ s.tables.roundCount) : ∃ k, rkRead s i = some k := by
  have hi : i - 1 < s.rk.length := by omega
  obtain ⟨k, hk⟩ := Option.ne_none_iff_exists'.1 (hc _ (List.getElem_mem hi))
  exact ⟨k, by simp [rkRead, List.getElem?_eq_getElem hi, hk]⟩

theorem storeComplete_of_storedKeys {s : State} {keys : List BV} (h : storedKeys s = some keys) :
    storeComplete s := by
  intro o ho hnone
  have := (allPresent_eq_none_iff s.rk).2 (hnone ▸ ho)
  rw [storedKeys, this] at h
  cases h

/-! ### Responses -/

/-- What the engine may answer: data only from a valid table set and of a width DOUT may have (R17, R202), and
only the errors that can be issued (R192). -/
def Issuable (T : TableSet) : Response → Prop
  | .ok none => True
  | .ok (some v) => ValidTables T ∧ (v.length = T.blockBits ∨ v.length = T.roundKeyBits)
  | .error e => BitVec.twoPow 16 (errCode e) &&& neverSetBits = 0#16

theorem issuable_error_iff {T : TableSet} {e : Err} :
    Issuable T (.error e) ↔ BitVec.twoPow 16 (errCode e) &&& neverSetBits = 0#16 := Iff.rfl

theorem StoredInv.respond {s : State} (h : StoredInv s) {a : Response} (ha : Issuable s.tables a) :
    StoredInv (respond a s) := by
  match a, ha with
  | .ok none, _ => exact h.of_eq rfl rfl rfl rfl rfl
  | .ok (some v), ⟨hT, hw⟩ =>
    exact
      { tsviol_eq := h.tsviol_eq
        rk_length := h.rk_length
        rk_width := h.rk_width
        dout_width := fun v' hv' => Option.some.inj hv' ▸ hw
        errmask_bits := h.errmask_bits
        bad_tables := fun hb => absurd hT hb }
  | .error e, he =>
    have hmask : (s.errmask ||| BitVec.twoPow 16 (errCode e)) &&& neverSetBits = 0#16 := by
      rw [BitVec.and_comm, BitVec.and_or_distrib_left, BitVec.and_comm, h.errmask_bits, BitVec.and_comm, he]
      rfl
    exact
      { tsviol_eq := h.tsviol_eq
        rk_length := h.rk_length
        rk_width := h.rk_width
        dout_width := h.dout_width
        errmask_bits := hmask
        bad_tables := h.bad_tables }

/-- A response leaves the invariant where the transients are already empty. -/
theorem inv_respond {s : State} (h : StoredInv s) (htr : transientsEmpty s) {a : Response}
    (ha : Issuable s.tables a) : (respond a s).Inv := by
  have hs := h.respond ha
  exact
    { tsviol_eq := hs.tsviol_eq
      rk_length := hs.rk_length
      rk_width := hs.rk_width
      dout_width := hs.dout_width
      errmask_bits := hs.errmask_bits
      bad_tables := fun hb => ⟨rfl, hs.bad_tables hb⟩
      seq_inv := htr
      rsp_idle := fun _ _ => rfl
      rsp_data := fun v hv => by rw [respond_dout, Option.some.inj hv, doutAfter] }

theorem inv_conclude {s : State} (h : StoredInv s) {a : Response} (ha : Issuable s.tables a) :
    (conclude a s).Inv :=
  inv_respond (s := dropTransients s) (h.of_eq rfl rfl rfl rfl rfl) ⟨rfl, rfl, rfl, rfl, rfl, rfl, rfl⟩ ha

/-- A step that issues no response: the sequencer's registers are what remains to be shown. -/
theorem inv_of_no_response {s : State} (h : StoredInv s) (hrsp : s.rsp = none) (hseq : seqInv s)
    (hbusy : s.seq = .idle ∨ ValidTables s.tables) : s.Inv :=
  { tsviol_eq := h.tsviol_eq
    rk_length := h.rk_length
    rk_width := h.rk_width
    dout_width := h.dout_width
    errmask_bits := h.errmask_bits
    bad_tables := fun hb => ⟨hbusy.resolve_right hb, h.bad_tables hb⟩
    seq_inv := hseq
    rsp_idle := fun a ha => by rw [hrsp] at ha; cases ha
    rsp_data := fun v hv => by rw [hrsp] at hv; cases hv }

theorem State.Inv.valid_of_busy {s : State} (h : s.Inv) (hs : s.seq ≠ .idle) : ValidTables s.tables :=
  by_contra fun hb => hs (h.bad_tables hb).1

theorem State.Inv.transientsEmpty {s : State} (h : s.Inv) (hs : s.seq = .idle) : transientsEmpty s := by
  have hregs := h.seq_inv
  rwa [seqInv, hs] at hregs

theorem State.Inv.noResponse {s : State} (h : s.Inv) : (noResponse s).Inv :=
  inv_of_no_response (h.stored.of_eq rfl rfl rfl rfl rfl) rfl h.seq_inv
    (or_iff_not_imp_left.2 h.valid_of_busy)

theorem State.Inv.nextLook {s : State} (h : s.Inv) : (nextLook s).Inv := by
  obtain ⟨h1, h2, h3, h4, h5, h6, h7, h8, h9⟩ := h
  exact ⟨h1, h2, h3, h4, h5, h6, h7, h8, h9⟩

/-- The invariant holds after reset, whatever the table set. -/
theorem inv_resetOf (T : TableSet) (ins : List PortIn) (n : Nat) : (State.resetOf T ins n).Inv := by
  refine inv_of_no_response ⟨rfl, by simp, ?_, ?_, by simp, ?_⟩ rfl ⟨rfl, rfl, rfl, rfl, rfl, rfl, rfl⟩
    (.inl rfl)
  · intro k hk
    simp at hk
  · intro v hv
    simp at hv
  · intro _
    exact ⟨rfl, fun o ho => List.eq_of_mem_replicate ho⟩

/-! ### Results that keep the invariant -/

/-- The result is a next state, and that state meets the invariant. -/
def Safe : Result → Prop
  | .next t => t.Inv
  | .fault _ => False
  | .refused _ => False

theorem safe_whenTablesValid {s : State} (h : s.Inv) (hs : s.seq = .idle) {go : Result}
    (hgo : ValidTables s.tables → Safe go) : Safe (whenTablesValid s go) := by
  by_cases hv : s.tsviol = 0#8
  · rw [whenTablesValid_of_valid hv]
    exact hgo (h.stored.tsviol_eq_zero_iff.1 hv)
  · rw [whenTablesValid_of_bad hv]
    exact inv_respond h.stored (h.transientsEmpty hs) (issuable_error_iff.2 (by decide))

theorem safe_raiseErr {s : State} (h : s.Inv) (hs : s.seq = .idle) {e : Err}
    (he : BitVec.twoPow 16 (errCode e) &&& neverSetBits = 0#16) : Safe (raiseErr e s) :=
  inv_respond h.stored (h.transientsEmpty hs) (issuable_error_iff.2 he)

theorem safe_abandon {s : State} (h : s.Inv) {e : Err}
    (he : BitVec.twoPow 16 (errCode e) &&& neverSetBits = 0#16) : Safe (abandon e s) :=
  inv_conclude h.stored (issuable_error_iff.2 he)

/-! ### Commands -/

theorem execNop_safe {s : State} (h : s.Inv) (hs : s.seq = .idle) : Safe (execNop s) :=
  inv_respond h.stored (h.transientsEmpty hs) trivial

theorem execClrerr_safe {s : State} (h : s.Inv) (hs : s.seq = .idle) : Safe (execClrerr s) := by
  refine safe_whenTablesValid h hs fun _ => ?_
  have hst : StoredInv { s with errmask := 0#16 } := { h.stored with errmask_bits := BitVec.zero_and }
  exact inv_respond hst (h.transientsEmpty hs) trivial

theorem execRkrd_safe {s : State} (h : s.Inv) (hs : s.seq = .idle) (idx : Nat) : Safe (execRkrd idx s) := by
  refine safe_whenTablesValid h hs fun hT => ?_
  split
  · split
    · rename_i k hk
      exact inv_respond h.stored (h.transientsEmpty hs) ⟨hT, .inr (h.rk_width k (mem_of_rkRead hk))⟩
    · exact safe_raiseErr h hs (by decide)
  · exact safe_raiseErr h hs (by decide)

theorem execRkwr_safe {s : State} (h : s.Inv) (hs : s.seq = .idle) (idx : Nat) : Safe (execRkwr idx s) := by
  refine safe_whenTablesValid h hs fun hT => ?_
  split
  · split
    · exact inv_respond (h.stored.rkWrite hT ‹_›) (h.transientsEmpty hs) trivial
    · exact safe_raiseErr h hs (by decide)
  · exact safe_raiseErr h hs (by decide)

theorem execKeyload_safe {s : State} (h : s.Inv) (hs : s.seq = .idle) : Safe (execKeyload s) := by
  refine safe_whenTablesValid h hs fun hT => ?_
  by_cases hl : s.operand.length = s.tables.keyBits
  · obtain ⟨keys, hk, hlen, hw⟩ := deriveRoundKeys_total hT hl
    rw [hk]
    refine inv_conclude (h.stored.with_rk hT ((List.length_map _).trans hlen) fun k hmem => ?_) trivial
    exact hw k (by simpa using hmem)
  · rw [deriveRoundKeys_of_length_ne hl]
    exact safe_abandon h (by decide)

/-- ENC and DEC: `order` only rearranges the stored keys. -/
theorem transformCommand_safe {s : State} (h : s.Inv) (hT : ValidTables s.tables)
    {order : List BV → List BV} (horder : ∀ ks, ∀ k ∈ order ks, k ∈ ks) : Safe (transformCommand order s) := by
  unfold transformCommand
  split
  · exact safe_abandon h (by decide)
  · rename_i hl
    split
    · exact safe_abandon h (by decide)
    · rename_i keys hk
      obtain ⟨out, ho, hol⟩ := transform_total hT (not_not.1 hl) (ks := order keys)
        fun k hmem => (h.stored.keysFit hk).2 k (horder keys k hmem)
      rw [ho]
      exact inv_conclude h.stored ⟨hT, .inl hol⟩

/-- Every command offered to an idle engine runs to its response and keeps the invariant. -/
theorem exec_safe {s : State} (h : s.Inv) (hs : s.seq = .idle) (i : Instr) : Safe (exec i s) := by
  cases i with
  | nop => exact execNop_safe h hs
  | keyload => exact execKeyload_safe h hs
  | rkrd idx => exact execRkrd_safe h hs idx
  | rkwr idx => exact execRkwr_safe h hs idx
  | enc => exact safe_whenTablesValid h hs fun hT => transformCommand_safe h hT fun _ _ hk => hk
  | dec => exact safe_whenTablesValid h hs fun hT => transformCommand_safe h hT fun _ _ => List.mem_reverse.1
  | clrerr => exact execClrerr_safe h hs

/-- The decode step of a sequencer command leaves its operands in place (R59, R14). -/
theorem startCommand_safe {s : State} (h : s.Inv) (hs : s.seq = .idle) (i : Instr) :
    Safe (startCommand i s) := by
  cases i with
  | keyload =>
    exact safe_whenTablesValid h hs fun hT =>
      inv_of_no_response (h.stored.of_eq rfl rfl rfl rfl rfl) rfl (Option.some_ne_none _) (.inr hT)
  | enc =>
    exact safe_whenTablesValid h hs fun hT => inv_of_no_response (h.stored.of_eq rfl rfl rfl rfl rfl) rfl
      ⟨Option.some_ne_none _, Option.some_ne_none _⟩ (.inr hT)
  | dec =>
    exact safe_whenTablesValid h hs fun hT => inv_of_no_response (h.stored.of_eq rfl rfl rfl rfl rfl) rfl
      ⟨Option.some_ne_none _, Option.some_ne_none _⟩ (.inr hT)
  | nop => exact exec_safe h hs .nop
  | rkrd idx => exact exec_safe h hs (.rkrd idx)
  | rkwr idx => exact exec_safe h hs (.rkwr idx)
  | clrerr => exact exec_safe h hs .clrerr

/-! ### Micro-steps, one equation per outcome -/

@[simp] theorem present_some {α : Type} (a : α) : present (some a) = .ok a := rfl
@[simp] theorem settle_ok (s t : State) : settle s (.ok t) = .next t := rfl
@[simp] theorem settle_raise (s : State) (e : Err) : settle s (.error (.raise e)) = abandon e s := rfl

theorem stepKsInit_of_length_ne {s : State} {k : BV} (hk : s.keyin = some k)
    (hl : k.length ≠ s.tables.keyBits) : stepKsInit s = abandon .invalidKeyLength s := by
  simp [stepKsInit, hk, hl]

theorem stepKsInit_of_halves {s : State} {k c d : BV} (hk : s.keyin = some k)
    (hl : k.length = s.tables.keyBits) (hcd : initialHalves s.tables k = .ok (c, d)) :
    stepKsInit s = .next { s with c := some c, d := some d, seq := .ksRound 1 } := by
  simp [stepKsInit, hk, hl, hcd]

theorem stepKsRound_of_schedule {s : State} {r : Nat} {c d c' d' k : BV} (hr : indexInRange s r = true)
    (hc : s.c = some c) (hd : s.d = some d) (hk : scheduleRound s.tables r c d = .ok (c', d', k)) :
    stepKsRound r s = .next (if r < s.tables.roundCount then
        { rkWrite { s with c := some c', d := some d' } r k with seq := .ksRound (r + 1) }
      else conclude (.ok none) (rkWrite { s with c := some c', d := some d' } r k)) := by
  by_cases hlast : r < s.tables.roundCount <;> simp [stepKsRound, hr, hc, hd, hk, hlast]

theorem stepInitial_of_length_ne {s : State} {b : BV} (hb : s.blk = some b)
    (hl : b.length ≠ s.tables.blockBits) : stepInitial s = abandon .invalidBlockLength s := by
  simp [stepInitial, hb, hl]

theorem stepInitial_of_key_missing {s : State} {b : BV} (hb : s.blk = some b)
    (hl : b.length = s.tables.blockBits) (hk : storedKeys s = none) :
    stepInitial s = abandon .roundKeyMissing s := by
  simp [stepInitial, hb, hl, hk]

theorem stepInitial_of_split {s : State} {b l r : BV} {keys : List BV} (hb : s.blk = some b)
    (hl : b.length = s.tables.blockBits) (hk : storedKeys s = some keys)
    (hlr : initialSplit s.tables b = .ok (l, r)) :
    stepInitial s = .next { s with l := some l, r := some r, seq := .roundExecuting 1 } := by
  simp [stepInitial, hb, hl, hk, hlr]

theorem stepRound_of_feistel {s : State} {r : Nat} {dec : Bool} {k l₀ r₀ l₁ r₁ : BV}
    (hr : indexInRange s r = true) (hdec : s.dirf = some dec) (hk : rkRead s (keyIndex s dec r) = some k)
    (hl : s.l = some l₀) (hr₀ : s.r = some r₀) (hf : feistelRound s.tables k l₀ r₀ = .ok (l₁, r₁)) :
    stepRound r s = .next { s with
      l := some l₁
      r := some r₁
      seq := if r < s.tables.roundCount then .roundExecuting (r + 1) else .swapped } := by
  simp [stepRound, hr, hdec, hk, hl, hr₀, hf]

theorem stepSwapped_of_halves {s : State} {l r : BV} (hl : s.l = some l) (hr : s.r = some r) :
    stepSwapped s = .next { s with blk := some (concat r l), seq := .final } := by
  simp [stepSwapped, hl, hr]

theorem stepFinal_of_permute {s : State} {b out : BV} (hb : s.blk = some b)
    (ho : permute b s.tables.finalPermutation = .ok out) :
    stepFinal s = .next (conclude (.ok (some out)) s) := by
  simp [stepFinal, hb, ho]

/-- R164: the store entry of a round is in range, whatever the direction. -/
theorem keyIndex_inRange {s : State} {r : Nat} (h1 : 1 ≤ r) (h2 : r ≤ s.tables.roundCount) (dec : Bool) :
    1 ≤ keyIndex s dec r ∧ keyIndex s dec r ≤ s.tables.roundCount := by
  cases dec <;> simp only [keyIndex, Bool.false_eq_true, if_false, if_true] <;> omega

/-! ### Micro-steps keep the invariant -/

theorem stepKsInit_safe {s : State} (h : s.Inv) (hrsp : s.rsp = none) (hs : s.seq = .ksInit) :
    Safe (stepKsInit s) := by
  have hT := h.valid_of_busy (by simp [hs])
  have hregs := h.seq_inv
  rw [seqInv, hs] at hregs
  obtain ⟨k, hk⟩ := Option.ne_none_iff_exists'.1 hregs
  by_cases hl : k.length = s.tables.keyBits
  · obtain ⟨c, d, hcd, hc, hd⟩ := initialHalves_total hT hl
    obtain ⟨hrounds, -⟩ := constraint_of_valid hT 12
    rw [stepKsInit_of_halves hk hl hcd]
    exact inv_of_no_response (h.stored.of_eq rfl rfl rfl rfl rfl) hrsp
      ⟨le_rfl, hrounds, ⟨c, rfl, hc⟩, ⟨d, rfl, hd⟩⟩ (.inr hT)
  · rw [stepKsInit_of_length_ne hk hl]
    exact safe_abandon h (by decide)

theorem stepKsRound_safe {s : State} (h : s.Inv) (hrsp : s.rsp = none) {r : Nat} (hs : s.seq = .ksRound r) :
    Safe (stepKsRound r s) := by
  have hT := h.valid_of_busy (by simp [hs])
  have hregs := h.seq_inv
  rw [seqInv, hs] at hregs
  obtain ⟨h1, h2, ⟨c, hc, hcl⟩, ⟨d, hd, hdl⟩⟩ := hregs
  obtain ⟨c', d', k, hk, hc', hd', hkl⟩ := scheduleRound_total hT h1 h2 hcl hdl
  have hhalves : StoredInv { s with c := some c', d := some d' } := h.stored.of_eq rfl rfl rfl rfl rfl
  have hstored := hhalves.rkWrite (i := r) hT hkl
  rw [stepKsRound_of_schedule ((indexInRange_iff s r).2 ⟨h1, h2⟩) hc hd hk]
  split
  · exact inv_of_no_response (hstored.of_eq rfl rfl rfl rfl rfl) hrsp
      ⟨by omega, by simpa using ‹_›, ⟨c', rfl, hc'⟩, ⟨d', rfl, hd'⟩⟩ (.inr hT)
  · exact inv_conclude hstored trivial

theorem stepInitial_safe {s : State} (h : s.Inv) (hrsp : s.rsp = none) (hs : s.seq = .initial) :
    Safe (stepInitial s) := by
  have hT := h.valid_of_busy (by simp [hs])
  have hregs := h.seq_inv
  rw [seqInv, hs] at hregs
  obtain ⟨hblk, hdirf⟩ := hregs
  obtain ⟨b, hb⟩ := Option.ne_none_iff_exists'.1 hblk
  by_cases hl : b.length = s.tables.blockBits
  · cases hk : storedKeys s with
    | none =>
      rw [stepInitial_of_key_missing hb hl hk]
      exact safe_abandon h (by decide)
    | some keys =>
      obtain ⟨l, r, hlr, hll, hrl⟩ := initialSplit_total hT hl
      obtain ⟨hrounds, -⟩ := constraint_of_valid hT 12
      rw [stepInitial_of_split hb hl hk hlr]
      exact inv_of_no_response (h.stored.of_eq rfl rfl rfl rfl rfl) hrsp
        ⟨le_rfl, hrounds, storeComplete_of_storedKeys hk, hdirf, ⟨l, rfl, hll⟩, ⟨r, rfl, hrl⟩⟩ (.inr hT)
  · rw [stepInitial_of_length_ne hb hl]
    exact safe_abandon h (by decide)

theorem stepRound_safe {s : State} (h : s.Inv) (hrsp : s.rsp = none) {r : Nat}
    (hs : s.seq = .roundExecuting r) : Safe (stepRound r s) := by
  have hT := h.valid_of_busy (by simp [hs])
  have hregs := h.seq_inv
  rw [seqInv, hs] at hregs
  obtain ⟨h1, h2, hfull, hdirf, ⟨l, hl, hll⟩, ⟨x, hx, hxl⟩⟩ := hregs
  obtain ⟨dec, hdec⟩ := Option.ne_none_iff_exists'.1 hdirf
  obtain ⟨hk1, hk2⟩ := keyIndex_inRange h1 h2 dec
  obtain ⟨k, hk⟩ := rkRead_of_complete hfull h.rk_length hk1 hk2
  obtain ⟨l', x', hlx, hll', hxl'⟩ := feistelRound_total hT (h.rk_width k (mem_of_rkRead hk)) hll hxl
  rw [stepRound_of_feistel ((indexInRange_iff s r).2 ⟨h1, h2⟩) hdec hk hl hx hlx]
  refine inv_of_no_response (h.stored.of_eq rfl rfl rfl rfl rfl) hrsp ?_ (.inr hT)
  by_cases hlast : r < s.tables.roundCount
  · simp only [seqInv, hlast, if_true]
    exact ⟨by omega, hlast, hfull, hdirf, ⟨l', rfl, hll'⟩, ⟨x', rfl, hxl'⟩⟩
  · simp only [seqInv, hlast, if_false]
    exact ⟨⟨l', rfl, hll'⟩, ⟨x', rfl, hxl'⟩⟩

theorem stepSwapped_safe {s : State} (h : s.Inv) (hrsp : s.rsp = none) (hs : s.seq = .swapped) :
    Safe (stepSwapped s) := by
  have hT := h.valid_of_busy (by simp [hs])
  have hregs := h.seq_inv
  rw [seqInv, hs] at hregs
  obtain ⟨⟨l, hl, hll⟩, ⟨r, hr, hrl⟩⟩ := hregs
  rw [stepSwapped_of_halves hl hr]
  exact inv_of_no_response (h.stored.of_eq rfl rfl rfl rfl rfl) hrsp
    ⟨concat r l, rfl, length_concat_halves hT hll hrl⟩ (.inr hT)

theorem stepFinal_safe {s : State} (h : s.Inv) (hs : s.seq = .final) : Safe (stepFinal s) := by
  have hT := h.valid_of_busy (by simp [hs])
  have hregs := h.seq_inv
  rw [seqInv, hs] at hregs
  obtain ⟨b, hb, hbl⟩ := hregs
  obtain ⟨out, ho, hol⟩ := finalPermutation_total hT hbl
  rw [stepFinal_of_permute hb ho]
  exact inv_conclude h.stored ⟨hT, .inl hol⟩

theorem microStep_safe {s : State} (h : s.Inv) (hrsp : s.rsp = none) : Safe (microStep s) := by
  unfold microStep
  split
  case h_1 => exact h
  case h_2 hs => exact stepKsInit_safe h hrsp hs
  case h_3 r hs => exact stepKsRound_safe h hrsp hs
  case h_4 hs => exact stepInitial_safe h hrsp hs
  case h_5 r hs => exact stepRound_safe h hrsp hs
  case h_6 hs => exact stepSwapped_safe h hrsp hs
  case h_7 hs => exact stepFinal_safe h hs

/-! ### Steps -/

theorem acceptCommand_safe {s : State} (h : s.Inv) (hs : s.seq = .idle) : Safe (acceptCommand s) := by
  unfold acceptCommand
  split
  · exact safe_raiseErr h hs (by decide)
  · split
    · exact startCommand_safe h hs _
    · exact exec_safe h hs _

theorem actOnLines_safe {s : State} (h : s.Inv) : Safe (actOnLines s) := by
  unfold actOnLines
  split
  · exact inv_resetOf _ _ _
  · split
    · split
      · exact acceptCommand_safe h ‹_›
      · exact h.noResponse
    · exact microStep_safe h.noResponse rfl

/-- From every state with the invariant a step answers a next state, which meets it again. -/
theorem step_safe {s : State} (h : s.Inv) : Safe (step s) := by
  have hu := actOnLines_safe h
  unfold step
  cases hr : actOnLines s <;> rw [hr] at hu
  case next u => exact State.Inv.nextLook hu
  case fault => exact hu
  case refused => exact hu

/-- Settles O58: with the invariant every datapath operation of a step gives a value of its stated width or one
of the errors that can be issued, so the step answers a state with the invariant (`step_safe`). -/
theorem stepKeepsTheInvariant : Obligations.StepKeepsTheInvariant := by
  intro s t hs ht
  have h := step_safe hs
  rwa [ht] at h

/-- Settles O57: the store, DOUT and the transients are empty after reset, for any table set. -/
theorem resetMeetsTheInvariant : Obligations.ResetMeetsTheInvariant :=
  ⟨inv_resetOf full64 [] 0, inv_resetOf⟩

end Sys2Proof.Machine
end

section
/-! SUPPORT. What every step leaves alone (R20, R24), and which commands write the store and DOUT (R16, R17). -/

namespace Sys2Proof.Machine

/-! ### Table set, TSVIOL and the host's list -/

/-- `t` has the table set, TSVIOL and host list of `s`. -/
def SameSetup (s t : State) : Prop :=
  t.tables = s.tables ∧ t.tsviol = s.tsviol ∧ t.inputs = s.inputs

theorem sameSetup_exec {i : Instr} {s t : State} (h : exec i s = .next t) : SameSetup s t := by
  obtain ⟨a, rk, em, rfl | rfl, -⟩ := exec_next h <;> exact ⟨rfl, rfl, rfl⟩

theorem sameSetup_startCommand {i : Instr} {s t : State} (h : startCommand i s = .next t) :
    SameSetup s t := by
  rcases startCommand_next h with h | ⟨-, rfl⟩ | ⟨-, -, rfl⟩ | ⟨-, dec, -, rfl⟩
  · exact sameSetup_exec h
  all_goals exact ⟨rfl, rfl, rfl⟩

theorem sameSetup_stepKsRound {r : Nat} {s t : State} (h : stepKsRound r s = .next t) : SameSetup s t := by
  obtain ⟨-, ⟨e, rfl⟩ | ⟨c, d, c', d', k, -, -, -, rfl⟩⟩ := stepKsRound_next h
  · exact ⟨rfl, rfl, rfl⟩
  · split <;> exact ⟨rfl, rfl, rfl⟩

theorem sameSetup_microStep {s t : State} (h : microStep s = .next t) : SameSetup s t := by
  unfold microStep at h
  split at h
  case h_1 =>
    cases h
    exact ⟨rfl, rfl, rfl⟩
  case h_2 => obtain ⟨e, rfl⟩ | ⟨k, c, d, -, -, -, rfl⟩ := stepKsInit_next h <;> exact ⟨rfl, rfl, rfl⟩
  case h_3 r _ => exact sameSetup_stepKsRound h
  case h_4 => obtain ⟨e, rfl⟩ | ⟨b, l, r, -, -, -, -, rfl⟩ := stepInitial_next h <;> exact ⟨rfl, rfl, rfl⟩
  case h_5 r _ =>
    obtain ⟨-, ⟨e, rfl⟩ | ⟨dec, k, l, r, l', r', -, -, -, -, -, rfl⟩⟩ := stepRound_next h <;> exact ⟨rfl, rfl, rfl⟩
  case h_6 => obtain ⟨e, rfl⟩ | ⟨l, r, -, -, rfl⟩ := stepSwapped_next h <;> exact ⟨rfl, rfl, rfl⟩
  case h_7 => obtain ⟨e, rfl⟩ | ⟨b, out, -, -, rfl⟩ := stepFinal_next h <;> exact ⟨rfl, rfl, rfl⟩

/-- No answer to the lines but reset touches them. -/
theorem sameSetup_actOnLines {s u : State} (h : actOnLines s = .next u) (hrst : s.line.rst = false) :
    SameSetup s u := by
  rcases actOnLines_next h with ⟨hr, -⟩ | ⟨-, ⟨-, -, rfl⟩ | ⟨-, -, -, rfl⟩ | ⟨-, -, i, -, ⟨-, hc⟩ | ⟨-, hc⟩⟩ | ⟨-, hm⟩⟩
  · rw [hrst] at hr
    cases hr
  · exact ⟨rfl, rfl, rfl⟩
  · exact ⟨rfl, rfl, rfl⟩
  · exact sameSetup_startCommand hc
  · exact sameSetup_exec hc
  · exact (sameSetup_microStep hm : SameSetup (noResponse s) u)

/-- Settles O47: every answer but reset leaves all three (`sameSetup_actOnLines`), and reset keeps the
table set and the host's list; the step then consumes one entry of it. -/
theorem noStepChangesTheTableSet : Obligations.NoStepChangesTheTableSet := by
  intro s t h
  obtain ⟨u, hu, rfl⟩ := step_next h
  cases hrst : s.line.rst with
  | true =>
    rcases actOnLines_next hu with ⟨-, rfl⟩ | ⟨hr, -⟩
    · exact ⟨rfl, nofun, rfl⟩
    · rw [hrst] at hr
      cases hr
  | false =>
    obtain ⟨htables, htsviol, hinputs⟩ := sameSetup_actOnLines hu hrst
    exact ⟨htables, fun _ => htsviol, congrArg List.tail hinputs⟩

/-! ### The store and DOUT -/

/-- A command's response is the only thing that reaches DOUT (R17, R60). -/
theorem exec_rsp_dout {i : Instr} {s t : State} (h : exec i s = .next t) :
    ∃ a, t.rsp = some a ∧ t.dout = doutAfter a s.dout := by
  obtain ⟨a, rk, em, rfl | rfl, -⟩ := exec_next h <;> exact ⟨a, rfl, rfl⟩

theorem doutAfter_of_no_data {a : Response} {o : Option BV} (h : ∀ v, a ≠ .ok (some v)) : doutAfter a o = o := by
  match a with
  | .ok none => rfl
  | .ok (some v) => exact absurd rfl (h v)
  | .error e => rfl

theorem transformCommand_rk {order : List BV → List BV} {s t : State} (h : transformCommand order s = .next t) :
    t.rk = s.rk := by
  rcases transformCommand_next h with ⟨-, rfl⟩ | ⟨-, ⟨-, rfl⟩ | ⟨keys, -, ⟨e, -, rfl⟩ | ⟨out, -, rfl⟩⟩⟩ <;> rfl

/-- R16: a command that changes the store is KEYLOAD or RKWR. -/
theorem store_writer {i : Instr} {s t : State} (h : exec i s = .next t) (hne : t.rk ≠ s.rk) :
    i = .keyload ∨ ∃ idx, i = .rkwr idx := by
  cases i with
  | keyload => exact .inl rfl
  | rkwr idx => exact .inr ⟨idx, rfl⟩
  | nop =>
    cases h
    exact absurd rfl hne
  | rkrd idx => rcases execRkrd_next h with ⟨e, -, rfl⟩ | ⟨-, -, k, -, rfl⟩ <;> exact absurd rfl hne
  | clrerr => rcases execClrerr_next h with ⟨-, rfl⟩ | ⟨-, rfl⟩ <;> exact absurd rfl hne
  | enc =>
    rcases whenTablesValid_next h with ⟨-, rfl⟩ | ⟨-, h⟩
    · exact absurd rfl hne
    · exact absurd (transformCommand_rk h) hne
  | dec =>
    rcases whenTablesValid_next h with ⟨-, rfl⟩ | ⟨-, h⟩
    · exact absurd rfl hne
    · exact absurd (transformCommand_rk h) hne

/-- R17: a command that answers with data is ENC, DEC or RKRD. -/
theorem data_answerer {i : Instr} {s t : State} (h : exec i s = .next t) {v : BV}
    (hv : t.rsp = some (.ok (some v))) : i = .enc ∨ i = .dec ∨ ∃ idx, i = .rkrd idx := by
  cases i with
  | enc => exact .inl rfl
  | dec => exact .inr (.inl rfl)
  | rkrd idx => exact .inr (.inr ⟨idx, rfl⟩)
  | nop =>
    cases h
    cases hv
  | clrerr => rcases execClrerr_next h with ⟨-, rfl⟩ | ⟨-, rfl⟩ <;> cases hv
  | rkwr idx => rcases execRkwr_next h with ⟨e, -, rfl⟩ | ⟨-, -, -, rfl⟩ <;> cases hv
  | keyload => rcases execKeyload_next h with ⟨-, rfl⟩ | ⟨-, ⟨e, -, rfl⟩ | ⟨keys, -, rfl⟩⟩ <;> cases hv

/-- Settles O36: the writers of the store and of data case by case (`store_writer`, `data_answerer`), DOUT
through the one response (`exec_rsp_dout`). -/
theorem onlyTheirOwnCommandsWriteRkAndDout : Obligations.OnlyTheirOwnCommandsWriteRkAndDout := by
  intro i s t h
  obtain ⟨a, hrsp, hdout⟩ := exec_rsp_dout h
  refine ⟨store_writer h, fun v hv => ⟨?_, data_answerer h hv⟩, fun hno => ?_⟩
  · obtain rfl : a = .ok (some v) := Option.some.inj (hrsp.symm.trans hv)
    exact hdout
  · rw [hdout]
    exact doutAfter_of_no_data fun v hav => hno v (hav ▸ hrsp)

end Sys2Proof.Machine
end

section
/-! SUPPORT. The bits of STATUS (R18) and the values after reset (R23). -/

namespace Sys2Proof.Machine

theorem statusWord_bits (busy err tserr keys dv : Bool) :
    (statusWord busy err tserr keys dv).getLsbD 0 = busy ∧ (statusWord busy err tserr keys dv).getLsbD 1 = err ∧
      (statusWord busy err tserr keys dv).getLsbD 2 = tserr ∧
      (statusWord busy err tserr keys dv).getLsbD 3 = keys ∧
      (statusWord busy err tserr keys dv).getLsbD 4 = dv ∧
      (statusWord busy err tserr keys dv).getLsbD 5 = false ∧
      (statusWord busy err tserr keys dv).getLsbD 6 = false ∧
      (statusWord busy err tserr keys dv).getLsbD 7 = false := by
  revert busy err tserr keys dv
  decide

theorem busyBit_eq_true_iff (s : State) : busyBit s = true ↔ s.seq ≠ .idle := by
  simp [busyBit]

theorem errBit_eq_true_iff (s : State) : errBit s = true ↔ s.errmask ≠ 0#16 := by
  simp [errBit]

theorem dvBit_eq_true_iff (s : State) : dvBit s = true ↔ s.dout ≠ none := by
  simp [dvBit, Option.isSome_iff_ne_none]

/-- Settles O23: bit by bit (`statusWord_bits`), what each flag says of the state. -/
theorem statusBits : Obligations.StatusBits := by
  intro s
  obtain ⟨h0, h1, h2, h3, h4, hreserved⟩ :=
    statusWord_bits (busyBit s) (errBit s) (tserrBit s) (keysBit s) (dvBit s)
  unfold State.status
  rw [h0, h1, h2, h3, h4]
  exact ⟨busyBit_eq_true_iff s, errBit_eq_true_iff s, tserrBit_eq_true_iff s, keysBit_eq_true_iff s,
    dvBit_eq_true_iff s, hreserved⟩

/-- R23: KEYS is 0 after reset, also for an empty store (log entry 19). -/
theorem keysBit_resetOf (T : TableSet) (ins : List PortIn) (n : Nat) : keysBit (State.resetOf T ins n) = false := by
  rw [← Bool.not_eq_true, keysBit_eq_true_iff]
  rintro ⟨hne, hall⟩
  obtain ⟨o, ho⟩ := List.exists_mem_of_ne_nil _ hne
  exact hall o ho (List.eq_of_mem_replicate ho)

/-- After reset STATUS shows TSERR alone. -/
theorem status_resetOf (T : TableSet) (ins : List PortIn) (n : Nat) :
    (State.resetOf T ins n).status = statusWord false false (tserrBit (State.resetOf T ins n)) false false := by
  unfold State.status
  rw [keysBit_resetOf]
  rfl

theorem tserrBit_resetOf (T : TableSet) (ins : List PortIn) (n : Nat) :
    tserrBit (State.resetOf T ins n) = true ↔ ¬ ValidTables T := by
  rw [tserrBit_eq_true_iff, resetOf_tsviol, Ne, tsviol_word_eq_zero_iff]

/-- Settles O46: only TSERR can be 1 in STATUS after reset (`status_resetOf`). -/
theorem resetValues : Obligations.ResetValues := by
  intro T ins n
  refine ⟨rfl, List.length_replicate, fun o ho => List.eq_of_mem_replicate ho, rfl, rfl, rfl, rfl,
    fun hT => ?_, fun hT => ?_, rfl, ?_, rfl⟩
  · have hts : tserrBit (State.resetOf T ins n) = false := by
      rw [← Bool.not_eq_true, tserrBit_resetOf]
      exact not_not.2 hT
    rw [status_resetOf, hts]
    rfl
  · rw [status_resetOf, (tserrBit_resetOf T ins n).2 hT]
    rfl
  · simp [State.ports, cmdReadyPort, busyBit]

end Sys2Proof.Machine
end

section
/-! SUPPORT. The transients have no influence on a command (R21): up to the transients, every command gives the
same result from `s` and from `s` with the transients dropped. -/

namespace Sys2Proof.Machine

@[simp] theorem operand_dropTransients (s : State) : (dropTransients s).operand = s.operand := rfl
@[simp] theorem storedKeys_dropTransients (s : State) : storedKeys (dropTransients s) = storedKeys s := rfl
@[simp] theorem rkRead_dropTransients (s : State) (i : Nat) : rkRead (dropTransients s) i = rkRead s i := rfl
@[simp] theorem indexInRange_dropTransients (s : State) (i : Nat) :
    indexInRange (dropTransients s) i = indexInRange s i := rfl

/-- A result up to the transients of its state. -/
def forgetTransients : Result → Result
  | .next t => .next (dropTransients t)
  | .fault f => .fault f
  | .refused q => .refused q

/-- Up to the transients, `run` gives the same result whatever they held. -/
def TransientFree (run : State → Result) : Prop :=
  ∀ s, forgetTransients (run (dropTransients s)) = forgetTransients (run s)

theorem transientFree_whenTablesValid {run : State → Result} (h : TransientFree run) :
    TransientFree fun s => whenTablesValid s (run s) := by
  intro s
  by_cases hv : s.tsviol = 0#8
  · dsimp only
    rw [whenTablesValid_of_valid hv, whenTablesValid_of_valid (s := dropTransients s) hv]
    exact h s
  · dsimp only
    rw [whenTablesValid_of_bad hv, whenTablesValid_of_bad (s := dropTransients s) hv]
    rfl

theorem forgetTransients_stopWith (s : State) (x : Stop) :
    forgetTransients (stopWith (dropTransients s) x) = forgetTransients (stopWith s x) := by
  cases x <;> rfl

theorem transientFree_execKeyload : TransientFree execKeyload := by
  refine transientFree_whenTablesValid fun s => ?_
  simp only [operand_dropTransients, dropTransients_tables]
  cases deriveRoundKeys s.tables s.operand with
  | ok keys => rfl
  | error x => exact forgetTransients_stopWith s x

theorem transientFree_execRkrd (idx : Nat) : TransientFree (execRkrd idx) := by
  refine transientFree_whenTablesValid fun s => ?_
  simp only [indexInRange_dropTransients, rkRead_dropTransients]
  by_cases hi : indexInRange s idx = true
  · simp only [hi, if_true]
    cases rkRead s idx <;> rfl
  · simp only [hi]
    rfl

theorem transientFree_execRkwr (idx : Nat) : TransientFree (execRkwr idx) := by
  refine transientFree_whenTablesValid fun s => ?_
  simp only [indexInRange_dropTransients, operand_dropTransients, dropTransients_tables]
  by_cases hi : indexInRange s idx = true
  · by_cases hl : s.operand.length = s.tables.roundKeyBits <;> simp only [hi, hl, if_true, if_false] <;> rfl
  · simp only [hi]
    rfl

theorem transientFree_transformCommand (order : List BV → List BV) : TransientFree (transformCommand order) := by
  intro s
  simp only [transformCommand, operand_dropTransients, dropTransients_tables, storedKeys_dropTransients]
  by_cases hl : s.operand.length = s.tables.blockBits
  · simp only [ne_eq, hl, not_true_eq_false, if_false]
    cases storedKeys s with
    | none => rfl
    | some keys =>
      dsimp only
      cases transform s.tables s.operand (order keys) with
      | ok out => rfl
      | error x => exact forgetTransients_stopWith s x
  · simp only [ne_eq, hl, not_false_eq_true, if_true]
    rfl

theorem transientFree_exec (i : Instr) : TransientFree (exec i) := by
  cases i with
  | nop => exact fun _ => rfl
  | keyload => exact transientFree_execKeyload
  | rkrd idx => exact transientFree_execRkrd idx
  | rkwr idx => exact transientFree_execRkwr idx
  | enc => exact transientFree_whenTablesValid (transientFree_transformCommand _)
  | dec => exact transientFree_whenTablesValid (transientFree_transformCommand _)
  | clrerr => exact transientFree_whenTablesValid fun _ => rfl

/-- Settles O35: both states give, up to the transients, the result of their common state without transients. -/
theorem transientsDoNotInfluenceCommands : Obligations.TransientsDoNotInfluenceCommands := by
  intro i s s' t hdrop ht
  have hres : forgetTransients (exec i s') = .next (dropTransients t) := by
    rw [← transientFree_exec i s', ← hdrop, transientFree_exec i s, ht]
    rfl
  cases hu : exec i s' <;> rw [hu] at hres
  case next u => exact ⟨u, rfl, (Host.Outcome.next.inj hres).symm⟩
  case fault => cases hres
  case refused => cases hres

end Sys2Proof.Machine
end

section
/-! SUPPORT. The operand on the lines (R33, R51) and what the ports show (R50, R60): a vector and its port word
determine each other. -/

namespace Sys2Proof.Machine

/-! ### `bv` and `val` -/

/-- R8: position `i` of `bv(N, x)` is binary digit `N − i` of `x`. -/
theorem bit_bv {n x i : Nat} (h1 : 1 ≤ i) (h2 : i ≤ n) : bit (bv n x) i = x.testBit (n - i) := by
  have hlt : i - 1 < n := by omega
  have hpos : n - 1 - (i - 1) = n - i := by omega
  simp [bit, bv, hlt, hpos]

/-- `bv(N, x)` reads the `N` low digits of `x` only. -/
theorem bv_congr_mod {n x y : Nat} (h : x % 2 ^ n = y % 2 ^ n) : bv n x = bv n y := by
  refine List.map_congr_left fun k hk => ?_
  have hk : k < n := by simpa using hk
  calc x.testBit k = (x % 2 ^ n).testBit k := by simp [Nat.testBit_mod_two_pow, hk]
    _ = (y % 2 ^ n).testBit k := by rw [h]
    _ = y.testBit k := by simp [Nat.testBit_mod_two_pow, hk]

theorem bv_succ (n x : Nat) : bv (n + 1) x = x.testBit n :: bv n x := by
  simp [bv, List.range_succ]

/-- The first digit of the reading of `b :: v` is `b`. -/
theorem testBit_val_cons (b : Bool) (v : BV) : (val (b :: v)).testBit v.length = b := by
  rw [val_cons, Nat.mul_comm, Nat.testBit_two_pow_mul_add _ (val_lt v)]
  cases b <;> simp

/-- R76: the vector that reads `val(v)` is `v`. -/
theorem bv_val (v : BV) : bv v.length (val v) = v := by
  induction v with
  | nil => rfl
  | cons b v ih =>
    have htail : bv v.length (val (b :: v)) = bv v.length (val v) := bv_congr_mod (by simp [val_cons])
    rw [List.length_cons, bv_succ, testBit_val_cons, htail, ih]

/-- A length of at most 255 fits the 8-bit length lines. -/
theorem toNat_ofNat_length {v : BV} (h : v.length ≤ 255) : (BitVec.ofNat 8 v.length).toNat = v.length := by
  rw [BitVec.toNat_ofNat]
  exact Nat.mod_eq_of_lt (by omega)

/-! ### The operand -/

/-- R33: an operand the port can carry is the `din_len` low bits of the port word. -/
theorem portVector_of_le {dw : Nat} {p : PortIn} (h : p.dinLen.toNat ≤ dw) (draw : Nat) :
    portVector dw draw p = bv p.dinLen.toNat p.din := by
  refine List.map_congr_left fun k hk => ?_
  have hk : k < p.dinLen.toNat := by simpa using hk
  exact if_pos (by omega)

/-- R51, R61: the lines of an issued command carry its operand. -/
theorem portVector_issue {dw : Nat} {v : BV} (h255 : v.length ≤ 255) (hdw : v.length ≤ dw) (draw : Nat)
    (i : Instr) : portVector dw draw (issue i v) = v := by
  have hlen : (issue i v).dinLen.toNat = v.length := toNat_ofNat_length h255
  rw [portVector_of_le (by omega), hlen]
  exact bv_val v

/-- Settles O37: such an operand is `bv(din_len, din)` (`portVector_of_le`), which reads the low bits alone, and
the operand of an issued command is read back from its own value (`bv_val`). -/
theorem operandIsRightAligned : Obligations.OperandIsRightAligned := by
  refine ⟨fun dw draw p h => ⟨portVector_length _ _ _, fun i h1 h2 => ?_, fun draw' q hlen hlow => ?_⟩,
    fun dw draw i v h255 hdw => portVector_issue h255 hdw draw i⟩
  · rw [portVector_of_le h]
    exact bit_bv h1 h2
  · rw [portVector_of_le h, portVector_of_le (hlen ▸ h), hlen]
    exact bv_congr_mod hlow

/-! ### The response ports -/

theorem hasData_eq_true_iff (a : Response) : hasData a = true ↔ ∃ v, a = .ok (some v) := by
  match a with
  | .ok (some v) => simp [hasData]
  | .ok none => simp [hasData]
  | .error e => simp [hasData]

/-- R52: without `rst` a response just issued is on the ports. -/
theorem responsePorts_of_rsp {s : State} {a : Response} (ha : s.rsp = some a) (hrst : s.line.rst = false) :
    s.ports.rspValid = true ∧ s.ports.rspCode = responseCode a ∧ s.ports.rspHasData = hasData a := by
  have hv : rspValidPort s = true := by simp [rspValidPort, ha, hrst]
  exact ⟨hv, by simp [State.ports, rspCodePort, ha, hv], by simp [State.ports, rspHasDataPort, ha, hv]⟩

theorem rspValid_of_no_response {s : State} (h : s.rsp = none) : s.ports.rspValid = false := by
  simp [State.ports, rspValidPort, h]

/-! ### The ports of an idle engine -/

theorem busyBit_of_idle {s : State} (h : s.seq = .idle) : busyBit s = false := by
  simp [busyBit, h]

/-- R33, R50: DOUT and its length. -/
theorem doutPorts_of_idle {s : State} (h : s.seq = .idle) {v : BV} (hv : s.dout = some v) :
    s.ports.doutLen = BitVec.ofNat 8 v.length ∧ s.ports.dout = val v :=
  ⟨by simp [State.ports, doutLenPort, busyBit_of_idle h, hv], by simp [State.ports, doutPort, busyBit_of_idle h, hv]⟩

theorem doutLen_of_idle_of_none {s : State} (h : s.seq = .idle) (hv : s.dout = none) :
    s.ports.doutLen = 0#8 := by
  simp [State.ports, doutLenPort, busyBit_of_idle h, hv]

/-- R18, R19, R50: an idle engine shows its flags and is ready unless `rst` is held. -/
theorem flagPorts_of_idle {s : State} (h : s.seq = .idle) :
    s.ports.status = s.status ∧ s.ports.errmask = s.errmask ∧ s.ports.cmdReady = !s.line.rst := by
  simp [State.ports, statusPort, errmaskPort, cmdReadyPort, busyBit_of_idle h]

/-- Settles O38: the response ports by the response just issued (`responsePorts_of_rsp`), the others by DOUT and
the flags of an idle engine (`doutPorts_of_idle`, `flagPorts_of_idle`), with the bound of `val_lt`. -/
theorem portsShowDoutAndResponses : Obligations.PortsShowDoutAndResponses := by
  refine ⟨fun s a ha hrst => ?_, fun s => rspValid_of_no_response, fun s hs => ?_⟩
  · obtain ⟨hvalid, hcode, hdata⟩ := responsePorts_of_rsp ha hrst
    exact ⟨hvalid, hcode, hdata ▸ hasData_eq_true_iff a⟩
  · obtain ⟨hstatus, herrmask, hready⟩ := flagPorts_of_idle hs
    refine ⟨fun v hv h255 => ?_, doutLen_of_idle_of_none hs, hstatus, herrmask, rfl, by simp [hready]⟩
    obtain ⟨hlen, hdout⟩ := doutPorts_of_idle hs hv
    exact ⟨hlen ▸ toNat_ofNat_length h255, hdout, hdout ▸ val_lt v⟩

end Sys2Proof.Machine
end

section
/-! SUPPORT. The decoder and the encoder by the three fields of the command word (R54): a word decodes to `i`
exactly when its fields are the opcode, the zero and the index of `i`. -/

namespace Sys2Proof

/-! ### The fields of a word -/

theorem opField_eq (w : CmdWord) : opField w = w.toNat / 4096 := by
  have hw := w.isLt
  simp only [opField, BitVec.extractLsb'_toNat, Nat.shiftRight_eq_div_pow]
  omega

theorem rsvField_eq (w : CmdWord) : rsvField w = w.toNat / 256 % 16 := by
  simp only [rsvField, BitVec.extractLsb'_toNat, Nat.shiftRight_eq_div_pow, Nat.reducePow]

theorem idxField_eq (w : CmdWord) : idxField w = w.toNat % 256 := by
  simp only [idxField, BitVec.extractLsb'_toNat, Nat.shiftRight_zero, Nat.reducePow]

/-- The three fields leave no bit of a word out. -/
theorem word_ext {w v : CmdWord} (hop : opField w = opField v) (hrsv : rsvField w = rsvField v)
    (hidx : idxField w = idxField v) : w = v := by
  rw [opField_eq, opField_eq] at hop
  rw [rsvField_eq, rsvField_eq] at hrsv
  rw [idxField_eq, idxField_eq] at hidx
  exact BitVec.eq_of_toNat_eq (by omega)

/-! ### The fields of a command -/

/-- Column `op` of R56. -/
def opcodeOf : Instr → Nat
  | .nop => 0
  | .keyload => 1
  | .rkrd _ => 2
  | .rkwr _ => 3
  | .enc => 4
  | .dec => 5
  | .clrerr => 6

/-- The index of a command, 0 for a command without one (R57, R58). -/
def indexOf : Instr → Nat
  | .rkrd idx => idx
  | .rkwr idx => idx
  | .nop => 0
  | .keyload => 0
  | .enc => 0
  | .dec => 0
  | .clrerr => 0

/-- The fields of `w` are those of `i`. -/
structure CarriesFields (w : CmdWord) (i : Instr) : Prop where
  op : opField w = opcodeOf i
  rsv : rsvField w = 0
  idx : idxField w = indexOf i

/-- An 8-bit index added to the word of an opcode stays in the `idx` field. -/
theorem carriesFields_add_index {base : CmdWord} {i : Instr} (hlow : base.toNat % 4096 = 0)
    (hop : opField base = opcodeOf i) (hidx : indexOf i < 256) :
    CarriesFields (base + BitVec.ofNat 16 (indexOf i)) i := by
  have hb := base.isLt
  have hsum : (base + BitVec.ofNat 16 (indexOf i)).toNat = base.toNat + indexOf i := by
    rw [BitVec.toNat_add, BitVec.toNat_ofNat]
    omega
  rw [opField_eq] at hop
  constructor
  · rw [opField_eq, hsum]
    omega
  · rw [rsvField_eq, hsum]
    omega
  · rw [idxField_eq, hsum]
    omega

theorem encode_carriesFields {i : Instr} (h : i.wellFormed = true) : CarriesFields (encode i) i := by
  cases i with
  | rkrd idx => exact carriesFields_add_index (i := .rkrd idx) rfl rfl (Nat.blt_eq.mp h)
  | rkwr idx => exact carriesFields_add_index (i := .rkwr idx) rfl rfl (Nat.blt_eq.mp h)
  | nop => exact ⟨rfl, rfl, rfl⟩
  | keyload => exact ⟨rfl, rfl, rfl⟩
  | enc => exact ⟨rfl, rfl, rfl⟩
  | dec => exact ⟨rfl, rfl, rfl⟩
  | clrerr => exact ⟨rfl, rfl, rfl⟩

/-! ### The decoder -/

theorem withoutIndex_eq_ok_iff {n : Nat} {i j : Instr} : withoutIndex n i = .ok j ↔ n = 0 ∧ i = j := by
  unfold withoutIndex
  split <;> simp [*]

theorem withoutIndex_error_iff {n : Nat} {i : Instr} : (∃ x, withoutIndex n i = .error x) ↔ n ≠ 0 := by
  unfold withoutIndex
  split <;> simp [*]

theorem decode_of_carriesFields {w : CmdWord} {i : Instr} (h : CarriesFields w i) : decode w = .ok i := by
  obtain ⟨hop, hrsv, hidx⟩ := h
  cases i <;> simp [decode, withoutIndex, hop, hrsv, hidx, opcodeOf, indexOf]

theorem carriesFields_of_decode {w : CmdWord} {i : Instr} (h : decode w = .ok i) :
    i.wellFormed = true ∧ CarriesFields w i := by
  have hidx : idxField w < 256 := by rw [idxField_eq]; omega
  unfold decode at h
  split at h
  · cases h
  · split at h
    · cases h
    · have hrsv : rsvField w = 0 := by simpa using ‹¬ rsvField w ≠ 0›
      split at h
      case h_3 hop =>
        cases h
        exact ⟨Nat.blt_eq.mpr hidx, hop, hrsv, rfl⟩
      case h_4 hop =>
        cases h
        exact ⟨Nat.blt_eq.mpr hidx, hop, hrsv, rfl⟩
      case h_8 => cases h
      all_goals
        obtain ⟨hzero, rfl⟩ := withoutIndex_eq_ok_iff.1 h
        exact ⟨rfl, ‹_›, hrsv, hzero⟩

/-- R58 by fields: the reserved opcodes, the reserved field, and an index on a command without one. -/
theorem decode_error_iff (w : CmdWord) :
    (∃ x, decode w = .error x) ↔ 7 ≤ opField w ∨ rsvField w ≠ 0 ∨
      ((opField w = 0 ∨ opField w = 1 ∨ opField w = 4 ∨ opField w = 5 ∨ opField w = 6) ∧ idxField w ≠ 0) := by
  by_cases hop : 7 ≤ opField w
  · simp [decode, hop]
  · by_cases hrsv : rsvField w = 0
    · interval_cases h : opField w <;> simp [decode, h, hrsv, withoutIndex_error_iff]
    · simp [decode, hop, hrsv]

/-! ### The obligations on the encoding -/

/-- Settles O1: the encoding carries the command's fields (`encode_carriesFields`), and the decoder reads nothing
else (`decode_of_carriesFields`). -/
theorem decodeOfEncodeIsTheCommand : Obligations.DecodeOfEncodeIsTheCommand := fun _ h =>
  decode_of_carriesFields (encode_carriesFields h)

/-- Settles O2: the word and the encoding of its command have the same fields, which are the whole word
(`word_ext`). -/
theorem legalWordsAreEncodings : Obligations.LegalWordsAreEncodings := by
  intro w i h
  obtain ⟨hwf, hw⟩ := carriesFields_of_decode h
  have he := encode_carriesFields hwf
  exact ⟨hwf, word_ext (he.op.trans hw.op.symm) (he.rsv.trans hw.rsv.symm) (he.idx.trans hw.idx.symm)⟩

/-- Settles O3: `decode_error_iff` with the fields written as arithmetic on the word. -/
theorem illegalWordsAreTheReservedOnes : Obligations.IllegalWordsAreTheReservedOnes := by
  intro w
  rw [decode_error_iff, opField_eq, rsvField_eq, idxField_eq]

/-- Settles O4: each sample is the encoding of its command. -/
theorem sampleWordsDecode : Obligations.SampleWordsDecode :=
  have h := decodeOfEncodeIsTheCommand
  ⟨h .nop rfl, h .keyload rfl, h (.rkrd 16) rfl, h (.rkwr 255) rfl, h .enc rfl, h .dec rfl, h .clrerr rfl⟩

end Sys2Proof
end

section
/-! SUPPORT. What a step is in each situation on the lines (R51, R53, R58, R59, R167), and that it always answers
from the invariant (R108). -/

namespace Sys2Proof.Machine

theorem step_of_busy {s : State} (hrst : s.line.rst = false) (hseq : s.seq ≠ .idle) :
    step s = afterLook (microStep (noResponse s)) := by
  simp [step, actOnLines, hrst, hseq]

theorem step_of_quiet {s : State} (hrst : s.line.rst = false) (hseq : s.seq = .idle)
    (hvalid : s.line.cmdValid = false) : step s = afterLook (.next (noResponse s)) := by
  simp [step, actOnLines, hrst, hseq, hvalid]

theorem step_of_illegal {s : State} {x : Illegal} (hrst : s.line.rst = false) (hseq : s.seq = .idle)
    (hvalid : s.line.cmdValid = true) (hx : decode s.line.cmdWord = .error x) :
    step s = afterLook (raiseErr .illegalCommand s) := by
  simp [step, actOnLines, acceptCommand, hrst, hseq, hvalid, hx]

theorem step_of_legal {s : State} {i : Instr} (hrst : s.line.rst = false) (hseq : s.seq = .idle)
    (hvalid : s.line.cmdValid = true) (hi : decode s.line.cmdWord = .ok i) :
    step s = afterLook (if s.line.watch then startCommand i s else exec i s) := by
  simp [step, actOnLines, acceptCommand, hrst, hseq, hvalid, hi]

/-- Settles O42: the equations of a step, with `watch` at either value. -/
theorem stepRunsTheDecodedCommand : Obligations.StepRunsTheDecodedCommand := by
  refine ⟨fun _ => rfl, fun _ _ => ⟨rfl, rfl⟩, fun s hrst => ⟨fun i hseq hvalid hi => ?_, step_of_quiet hrst,
    step_of_busy hrst⟩⟩
  rw [step_of_legal hrst hseq hvalid hi]
  exact ⟨fun hw => by simp [hw], fun hw => by simp [hw]⟩

/-- On an idle engine a response writes the response lines, the sticky flags and DOUT alone (R196). -/
theorem respond_of_idle {s : State} (hseq : s.seq = .idle) (a : Response) :
    respond a s = { s with rsp := some a, errmask := stickyAfter a s.errmask, dout := doutAfter a s.dout } := by
  rw [respond, ← hseq]

/-- Settles O43: the step raises IllegalCommand (`step_of_illegal`), whose flag is bit 10 of ERRMASK. -/
theorem illegalWordsChangeOnlyTheFlags : Obligations.IllegalWordsChangeOnlyTheFlags := by
  intro s x hrst hseq hvalid hx
  rw [step_of_illegal hrst hseq hvalid hx, raiseErr, respond_of_idle hseq]
  rfl

/-- Settles O49: on a good table set the decode step goes past the table-set check. -/
theorem decodeStepLatchesOperands : Obligations.DecodeStepLatchesOperands := fun _ hv =>
  ⟨whenTablesValid_of_valid hv _, whenTablesValid_of_valid hv _, whenTablesValid_of_valid hv _⟩

/-- Settles O59: with the invariant a step is safe (`step_safe`), and a safe result is a next state. -/
theorem noReachableStepStops : Obligations.NoReachableStepStops := by
  intro s hs
  have h := step_safe hs
  cases ht : step s <;> rw [ht] at h
  case next t => exact ⟨t, rfl⟩
  case fault => exact h.elim
  case refused => exact h.elim

end Sys2Proof.Machine
end

section
/-! SUPPORT. Runs that do not look at the lines: the micro-steps (R51) and the commands without an operand (R55).
Each commutes with the host moving on, so what the lines held is gone before it matters. -/

namespace Sys2Proof.Machine

@[simp] theorem indexInRange_nextLook (s : State) (i : Nat) :
    indexInRange (nextLook s) i = indexInRange s i := rfl
@[simp] theorem rkRead_nextLook (s : State) (i : Nat) : rkRead (nextLook s) i = rkRead s i := rfl
@[simp] theorem storedKeys_nextLook (s : State) : storedKeys (nextLook s) = storedKeys s := rfl

/-- The run reads neither the lines nor the draw counter: it commutes with the host moving on. -/
def Blind (run : State → Result) : Prop := ∀ s, afterLook (run s) = run (nextLook s)

theorem blind_whenTablesValid {run : State → Result} (h : Blind run) :
    Blind fun s => whenTablesValid s (run s) := by
  intro s
  by_cases hv : s.tsviol = 0#8
  · dsimp only
    rw [whenTablesValid_of_valid hv, whenTablesValid_of_valid (s := nextLook s) hv]
    exact h s
  · dsimp only
    rw [whenTablesValid_of_bad hv, whenTablesValid_of_bad (s := nextLook s) hv]
    rfl

theorem blind_execRkrd (idx : Nat) : Blind (execRkrd idx) := by
  refine blind_whenTablesValid fun s => ?_
  rw [rkRead_nextLook, indexInRange_nextLook]
  cases indexInRange s idx <;> cases rkRead s idx <;> rfl

/-! A micro-step reads registers only, and each of its operations gives the same before and after the host moves
on; what remains is the state it computes. -/

theorem afterLook_settle_error (s : State) (x : Stop) :
    afterLook (settle s (.error x)) = settle (nextLook s) (.error x) := by
  cases x <;> rfl

theorem afterLook_settle_bind {α : Type} {s : State} {m : Res α} {f g : α → Res State}
    (h : ∀ a, afterLook (settle s (f a)) = settle (nextLook s) (g a)) :
    afterLook (settle s (m >>= f)) = settle (nextLook s) (m >>= g) := by
  cases m with
  | ok a => exact h a
  | error x => exact afterLook_settle_error s x

theorem blind_stepKsInit : Blind stepKsInit := by
  refine fun s => afterLook_settle_bind fun k => ?_
  by_cases hl : k.length = s.tables.keyBits
  · simp only [ne_eq, hl, not_true_eq_false, if_false, nextLook_tables]
    exact afterLook_settle_bind fun _ => rfl
  · simp only [ne_eq, hl, not_false_eq_true, if_true, nextLook_tables]
    exact afterLook_settle_error s _

theorem blind_stepKsRound (r : Nat) : Blind (stepKsRound r) := by
  intro s
  unfold stepKsRound
  rw [indexInRange_nextLook]
  by_cases hr : indexInRange s r = true
  · simp only [hr, if_true]
    refine afterLook_settle_bind fun c => afterLook_settle_bind fun d => afterLook_settle_bind fun cdk => ?_
    by_cases hlast : r < s.tables.roundCount <;> simp only [hlast, if_true, if_false, nextLook_tables] <;> rfl
  · simp only [hr]
    rfl

theorem blind_stepInitial : Blind stepInitial := by
  refine fun s => afterLook_settle_bind fun b => ?_
  by_cases hl : b.length = s.tables.blockBits
  · simp only [ne_eq, hl, not_true_eq_false, if_false, nextLook_tables, storedKeys_nextLook]
    by_cases hk : (storedKeys s).isNone = true
    · simp only [hk, if_true]
      exact afterLook_settle_error s _
    · simp only [hk]
      exact afterLook_settle_bind fun _ => rfl
  · simp only [ne_eq, hl, not_false_eq_true, if_true, nextLook_tables]
    exact afterLook_settle_error s _

theorem blind_stepRound (r : Nat) : Blind (stepRound r) := by
  intro s
  unfold stepRound
  rw [indexInRange_nextLook]
  by_cases hr : indexInRange s r = true
  · simp only [hr, if_true]
    exact afterLook_settle_bind fun dec => afterLook_settle_bind fun k => afterLook_settle_bind fun l =>
      afterLook_settle_bind fun r => afterLook_settle_bind fun lr => rfl
  · simp only [hr]
    rfl

theorem blind_stepSwapped : Blind stepSwapped := fun _ =>
  afterLook_settle_bind fun _ => afterLook_settle_bind fun _ => rfl

theorem blind_stepFinal : Blind stepFinal := fun _ =>
  afterLook_settle_bind fun _ => afterLook_settle_bind fun _ => rfl

theorem blind_microStep : Blind microStep := by
  intro s
  simp only [microStep, nextLook_seq]
  cases s.seq with
  | idle => rfl
  | ksInit => exact blind_stepKsInit s
  | ksRound r => exact blind_stepKsRound r s
  | initial => exact blind_stepInitial s
  | roundExecuting r => exact blind_stepRound r s
  | swapped => exact blind_stepSwapped s
  | final => exact blind_stepFinal s

/-- R55: the commands without an operand complete in the decode step and do not look at the data lines. -/
def Operandless (i : Instr) : Prop := i = .nop ∨ i = .clrerr ∨ ∃ idx, i = .rkrd idx

theorem startCommand_of_operandless {i : Instr} (h : Operandless i) (s : State) : startCommand i s = exec i s := by
  obtain rfl | rfl | ⟨idx, rfl⟩ := h <;> rfl

theorem blind_exec_of_operandless {i : Instr} (h : Operandless i) : Blind (exec i) := by
  obtain rfl | rfl | ⟨idx, rfl⟩ := h
  · exact fun _ => rfl
  · exact blind_whenTablesValid fun _ => rfl
  · exact blind_execRkrd idx

/-- The step of a command without an operand, in either grain. -/
theorem step_of_operandless {s : State} {i : Instr} (hrst : s.line.rst = false) (hseq : s.seq = .idle)
    (hvalid : s.line.cmdValid = true) (hi : decode s.line.cmdWord = .ok i) (h : Operandless i) :
    step s = exec i (nextLook s) := by
  rw [step_of_legal hrst hseq hvalid hi, startCommand_of_operandless h, ite_self]
  exact blind_exec_of_operandless h s

/-- Settles O40: both steps are the command on the one state in which the lines are gone (`step_of_operandless`). -/
theorem operandlessCommandsIgnoreTheDataLines : Obligations.OperandlessCommandsIgnoreTheDataLines := by
  intro s i n x hrst hseq hvalid hi h
  rw [step_of_operandless hrst hseq hvalid hi h]
  exact step_of_operandless hrst hseq hvalid hi h

/-- Settles O41: both steps are the micro-step of the one state in which the lines are gone (`blind_microStep`). -/
theorem offersWhileBusyHaveNoEffect : Obligations.OffersWhileBusyHaveNoEffect := by
  intro s p hseq hrst hp
  rw [step_of_busy hrst hseq, blind_microStep]
  exact (step_of_busy (s := { s with inputs := p :: s.inputs.tail }) hp hseq).trans (blind_microStep _)

end Sys2Proof.Machine
end

section
/-! SUPPORT. Each command issues its one response when it ends, and DOUT changes by its data alone (R52, R60). -/

namespace Sys2Proof.Machine

/-- From `s` to `t` a command ends with its one response, or none is issued and the engine is busy (R52, R60). -/
def EndsOrGoesOn (s t : State) : Prop :=
  (∃ a, t.rsp = some a ∧ t.seq = .idle ∧ t.dout = doutAfter a s.dout) ∨
    (t.rsp = none ∧ t.seq ≠ .idle ∧ t.dout = s.dout)

theorem endsOrGoesOn_exec {i : Instr} {s t : State} (h : exec i s = .next t) : EndsOrGoesOn s t := by
  obtain ⟨a, rk, em, rfl | rfl, -⟩ := exec_next h <;> exact .inl ⟨a, rfl, rfl, rfl⟩

theorem endsOrGoesOn_startCommand {i : Instr} {s t : State} (h : startCommand i s = .next t) :
    EndsOrGoesOn s t := by
  rcases startCommand_next h with h | ⟨-, rfl⟩ | ⟨-, -, rfl⟩ | ⟨-, dec, -, rfl⟩
  · exact endsOrGoesOn_exec h
  · exact .inl ⟨_, rfl, rfl, rfl⟩
  · exact .inr ⟨rfl, nofun, rfl⟩
  · exact .inr ⟨rfl, nofun, rfl⟩

theorem endsOrGoesOn_conclude (a : Response) {s t : State} (hdout : t.dout = s.dout) :
    EndsOrGoesOn s (conclude a t) :=
  .inl ⟨a, rfl, rfl, congrArg (doutAfter a) hdout⟩

theorem endsOrGoesOn_microStep {s t : State} (hrsp : s.rsp = none) (hseq : s.seq ≠ .idle)
    (h : microStep s = .next t) : EndsOrGoesOn s t := by
  unfold microStep at h
  split at h
  case h_1 hs => exact absurd hs hseq
  case h_2 =>
    obtain ⟨e, rfl⟩ | ⟨k, c, d, -, -, -, rfl⟩ := stepKsInit_next h
    · exact endsOrGoesOn_conclude _ rfl
    · exact .inr ⟨hrsp, nofun, rfl⟩
  case h_3 r _ =>
    obtain ⟨-, ⟨e, rfl⟩ | ⟨c, d, c', d', k, -, -, -, rfl⟩⟩ := stepKsRound_next h
    · exact endsOrGoesOn_conclude _ rfl
    · split
      · exact .inr ⟨hrsp, nofun, rfl⟩
      · exact endsOrGoesOn_conclude _ rfl
  case h_4 =>
    obtain ⟨e, rfl⟩ | ⟨b, l, r, -, -, -, -, rfl⟩ := stepInitial_next h
    · exact endsOrGoesOn_conclude _ rfl
    · exact .inr ⟨hrsp, nofun, rfl⟩
  case h_5 r _ =>
    obtain ⟨-, ⟨e, rfl⟩ | ⟨dec, k, l, r', l', x, -, -, -, -, -, rfl⟩⟩ := stepRound_next h
    · exact endsOrGoesOn_conclude _ rfl
    · exact .inr ⟨hrsp, by dsimp only; split <;> nofun, rfl⟩
  case h_6 =>
    obtain ⟨e, rfl⟩ | ⟨l, r, -, -, rfl⟩ := stepSwapped_next h
    · exact endsOrGoesOn_conclude _ rfl
    · exact .inr ⟨hrsp, nofun, rfl⟩
  case h_7 =>
    obtain ⟨e, rfl⟩ | ⟨b, out, -, -, rfl⟩ := stepFinal_next h
    · exact endsOrGoesOn_conclude _ rfl
    · exact endsOrGoesOn_conclude _ rfl

/-- Without reset, a look leaves an idle engine to which nothing is offered as it is, and otherwise ends a command
or goes on with it. -/
theorem actOnLines_response {s u : State} (h : actOnLines s = .next u) (hrst : s.line.rst = false) :
    (s.seq = .idle ∧ s.line.cmdValid = false ∧ u = noResponse s) ∨
      ((s.seq ≠ .idle ∨ s.line.cmdValid = true) ∧ EndsOrGoesOn s u) := by
  rcases actOnLines_next h with
    ⟨hr, -⟩ | ⟨-, hquiet | ⟨-, hv, -, rfl⟩ | ⟨-, hv, i, -, ⟨-, hc⟩ | ⟨-, hc⟩⟩ | ⟨hseq, hm⟩⟩
  · rw [hrst] at hr
    cases hr
  · exact .inl hquiet
  · exact .inr ⟨.inr hv, .inl ⟨_, rfl, rfl, rfl⟩⟩
  · exact .inr ⟨.inr hv, endsOrGoesOn_startCommand hc⟩
  · exact .inr ⟨.inr hv, endsOrGoesOn_exec hc⟩
  · exact .inr ⟨.inl hseq, (endsOrGoesOn_microStep rfl hseq hm : EndsOrGoesOn (noResponse s) u)⟩

/-- Settles O48: a look without reset issues no response on a quiet idle engine, and otherwise a response and an
idle engine come together (`actOnLines_response`); DOUT is then `doutAfter` of that response. -/
theorem oneResponsePerCommand : Obligations.OneResponsePerCommand := by
  intro s t h hrst
  obtain ⟨u, hu, rfl⟩ := step_next h
  simp only [nextLook_rsp, nextLook_seq, nextLook_dout]
  rcases actOnLines_response hu hrst with ⟨hseq, hv, rfl⟩ | ⟨hcmd, ⟨a, hrsp, hidle, hdout⟩ | ⟨hrsp, hbusy, hdout⟩⟩
  · exact ⟨by simp [hseq, hv], nofun, fun _ => rfl⟩
  · simp only [hrsp, hdout, ne_eq, Option.some.injEq]
    exact ⟨by simp [hidle, hcmd], fun v ha => by rw [ha, doutAfter], doutAfter_of_no_data⟩
  · exact ⟨by simp [hrsp, hbusy], by simp [hrsp], fun _ => hdout⟩

end Sys2Proof.Machine
end

section
/-! SUPPORT. The datapath primitives position by position (R71 to R76): a vector is its length and the bits at its
positions. -/

namespace Sys2Proof.Machine

/-! ### Positions -/

theorem getElem?_eq_bit {v : BV} {i : Nat} (h1 : 1 ≤ i) (h2 : i ≤ v.length) : v[i - 1]? = some (bit v i) := by
  have hlt : i - 1 < v.length := by omega
  simp [bit, hlt]

/-- Vectors of one length with the same bit at every position are equal. -/
theorem eq_of_bits {v w : BV} (hlen : v.length = w.length) (hbits : ∀ i, 1 ≤ i → i ≤ v.length → bit v i = bit w i) :
    v = w := by
  refine List.ext_getElem? fun j => ?_
  by_cases hj : j < v.length
  · have hv : v[j]? = some (bit v (j + 1)) := getElem?_eq_bit (by omega) hj
    have hw : w[j]? = some (bit w (j + 1)) := getElem?_eq_bit (by omega) (hlen ▸ hj)
    rw [hv, hw, hbits (j + 1) (by omega) hj]
  · rw [List.getElem?_eq_none (by omega), List.getElem?_eq_none (by omega)]

@[simp] theorem zeros_length (n : Nat) : (zeros n).length = n := bv_length n 0

theorem bit_zeros {n i : Nat} (h1 : 1 ≤ i) (h2 : i ≤ n) : bit (zeros n) i = false := by
  rw [zeros, bit_bv h1 h2, Nat.zero_testBit]

/-! ### permute -/

theorem permute_of_outside {v : BV} {tab : List Nat} (h : ∃ t ∈ tab, t < 1 ∨ v.length < t) :
    permute v tab = .error (.raise .indexOutOfRange) := by
  obtain ⟨t, ht, hout⟩ := h
  rcases permute_cases v tab with ⟨hin, -⟩ | herr
  · have := hin t ht
    omega
  · exact herr

/-- Settles O5: the result is `tab.map (bit v)` (`permute_of_within`), and one entry outside fails the range check
(`permute_of_outside`). -/
theorem permuteSelectsPositions : Obligations.PermuteSelectsPositions := by
  refine fun v tab => ⟨fun hin => ⟨_, permute_of_within hin, List.length_map _, fun i t _ ht => ?_⟩,
    permute_of_outside⟩
  obtain ⟨h1, h2⟩ := hin t (List.mem_of_getElem? ht)
  rw [List.getElem?_map, ht, Option.map_some, getElem?_eq_bit h1 h2]

/-! ### split and concat -/

theorem split_of_lt {v : BV} {n : Nat} (h : v.length < n) : split v n = .error (.raise .invalidWidth) := by
  rw [split, if_pos h]

theorem split_concat (a b : BV) : split (concat a b) a.length = .ok (a, b) := by
  rw [split_of_le (by simp [concat])]
  simp [concat]

/-- Settles O6: the two parts are `take` and `drop` of the operand (`split_of_le`). -/
theorem splitUndoesConcat : Obligations.SplitUndoesConcat :=
  ⟨fun a b => ⟨List.length_append, split_concat a b⟩,
    fun _ n h => ⟨_, _, split_of_le h, List.length_take_of_le h, List.length_drop, List.take_append_drop n _⟩,
    fun _ _ => split_of_lt⟩

/-! ### xor -/

theorem xorBits_of_length_ne {a b : BV} (h : a.length ≠ b.length) :
    xorBits a b = .error (.raise .lengthMismatch) := by
  rw [xorBits, if_pos h]

theorem bit_zipWith_xor {a b : BV} (hlen : a.length = b.length) {i : Nat} (h1 : 1 ≤ i) (h2 : i ≤ a.length) :
    bit (List.zipWith (fun x y => x ^^ y) a b) i = (bit a i ^^ bit b i) := by
  have ha : i - 1 < a.length := by omega
  have hb : i - 1 < b.length := by omega
  simp [bit, ha, hb]

/-- On equal lengths `xor` gives `x` exactly when `x` is the bitwise exclusive or of its operands. -/
theorem xorBits_eq_ok_iff {a b x : BV} (hlen : a.length = b.length) :
    xorBits a b = .ok x ↔
      x.length = a.length ∧ ∀ i, 1 ≤ i → i ≤ a.length → bit x i = (bit a i ^^ bit b i) := by
  have hzip : (List.zipWith (fun x y => x ^^ y) a b).length = a.length := by simp [hlen]
  rw [xorBits_of_length hlen, Except.ok.injEq]
  constructor
  · rintro rfl
    exact ⟨hzip, fun i => bit_zipWith_xor hlen⟩
  · rintro ⟨hx, hbits⟩
    refine eq_of_bits (hzip.trans hx.symm) fun i h1 h2 => ?_
    rw [bit_zipWith_xor hlen h1 (hzip ▸ h2), hbits i h1 (hzip ▸ h2)]

theorem xorBits_self (a : BV) : xorBits a a = .ok (zeros a.length) :=
  (xorBits_eq_ok_iff rfl).2 ⟨zeros_length _, fun i h1 h2 => by rw [bit_zeros h1 h2, Bool.xor_self]⟩

theorem xorBits_zeros (a : BV) : xorBits a (zeros a.length) = .ok a :=
  (xorBits_eq_ok_iff (zeros_length _).symm).2
    ⟨rfl, fun i h1 h2 => by rw [bit_zeros h1 h2, Bool.xor_false]⟩

theorem xorBits_cancel {a b x : BV} (hlen : a.length = b.length) (h : xorBits a b = .ok x) :
    xorBits x b = .ok a := by
  obtain ⟨hx, hbits⟩ := (xorBits_eq_ok_iff hlen).1 h
  refine (xorBits_eq_ok_iff (hx.trans hlen)).2 ⟨hx.symm, fun i h1 h2 => ?_⟩
  rw [hbits i h1 (hx ▸ h2), Bool.xor_assoc, Bool.xor_self, Bool.xor_false]

/-- Settles O7: every clause is the bitwise characterisation `xorBits_eq_ok_iff`. -/
theorem xorIsBitwiseAndCancels : Obligations.XorIsBitwiseAndCancels := by
  refine ⟨fun a b => xorBits_of_length_ne, fun a b hlen => ?_⟩
  have hx := xorBits_of_length hlen
  obtain ⟨hxlen, hbits⟩ := (xorBits_eq_ok_iff hlen).1 hx
  exact ⟨_, hx, hxlen, hbits, xorBits_cancel hlen hx, xorBits_self a, xorBits_zeros a⟩

/-! ### rotateLeft -/

/-- R75's rotation is the library's cyclic rotation of a list. -/
theorem rotateLeft_eq_rotate (v : BV) (n : Nat) : rotateLeft v n = v.rotate n := by
  rw [rotateLeft, List.rotate_eq_drop_append_take_mod]
  split
  next h => simp [List.eq_nil_of_length_eq_zero h]
  next => rfl

theorem bit_rotateLeft {v : BV} {i : Nat} (h1 : 1 ≤ i) (h2 : i ≤ v.length) (n : Nat) :
    bit (rotateLeft v n) i = bit v ((i - 1 + n) % v.length + 1) := by
  have hlt : i - 1 < v.length := by omega
  simp only [bit, rotateLeft_eq_rotate, List.getD_eq_getElem?_getD, List.getElem?_rotate hlt,
    Nat.add_sub_cancel]

/-- Settles O8: the rotation is `List.rotate` (`rotateLeft_eq_rotate`), whose amounts add. -/
theorem rotateLeftMovesPositions : Obligations.RotateLeftMovesPositions := by
  refine ⟨fun v n => ⟨rotateLeft_length v n, fun i h1 h2 => bit_rotateLeft h1 h2 n⟩, fun v a b => ?_⟩
  simp only [rotateLeft_eq_rotate, List.rotate_rotate]

/-! ### val and bv -/

/-- `bv(N, x)` reads `x` modulo `2^N`: a digit more is the digit `N` of `x` on top. -/
theorem val_bv (n x : Nat) : val (bv n x) = x % 2 ^ n := by
  induction n with
  | zero => simp [bv, val, Nat.mod_one]
  | succ n ih =>
    calc val (bv (n + 1) x) = (x.testBit n).toNat * 2 ^ n + x % 2 ^ n := by
          rw [bv_succ, val_cons, bv_length, ih]
      _ = x % 2 ^ (n + 1) := by rw [Nat.mod_pow_succ, Nat.toNat_testBit]; ring

/-- Settles O9: `val_bv` without the wrap, and `bv_val`. -/
theorem valAndBvAreInverse : Obligations.ValAndBvAreInverse :=
  ⟨fun n x h => ⟨by rw [val_bv, Nat.mod_eq_of_lt h], bv_length n x⟩, bv_val⟩

end Sys2Proof.Machine
end

section
/-! SUPPORT. The text forms of a vector (R78 to R81). Reading fails with ParseError alone, so what a reader accepts
decides what it rejects. -/

namespace Sys2Proof.Machine

/-! ### The binary form -/

/-- The digits are read back as the vector they are the form of, and nothing else is read (R78). -/
theorem binaryBits_cases (s : List Char) :
    (∃ v, binaryBits s = .ok v ∧ toBinaryString v = s) ∨ binaryBits s = .error .parseError := by
  induction s with
  | nil => exact .inl ⟨[], rfl, rfl⟩
  | cons ch rest ih =>
    rw [binaryBits]
    rcases ih with ⟨v, hv, rfl⟩ | herr
    · rw [hv]
      split
      next h0 => exact .inl ⟨false :: v, rfl, by rw [h0]; rfl⟩
      next =>
        split
        next h1 => exact .inl ⟨true :: v, rfl, by rw [h1]; rfl⟩
        next => exact .inr rfl
    · refine .inr ?_
      rw [herr]
      split <;> [rfl; split <;> rfl]

@[simp] theorem toBinaryString_length (v : BV) : (toBinaryString v).length = v.length := List.length_map _

@[simp] theorem toBinaryString_cons (b : Bool) (v : BV) :
    toBinaryString (b :: v) = (if b then '1' else '0') :: toBinaryString v := rfl

theorem binaryBits_toBinaryString (v : BV) : binaryBits (toBinaryString v) = .ok v := by
  induction v with
  | nil => rfl
  | cons b v ih =>
    cases b <;> simp [binaryBits, ih, Except.map]

theorem fromBinaryString_toBinaryString (v : BV) : fromBinaryString (toBinaryString v) v.length = .ok v := by
  rw [fromBinaryString, if_neg (by simp), binaryBits_toBinaryString]

/-- R78: a string is read as the vector whose form it is, of the stated length, or is a ParseError. -/
theorem fromBinaryString_cases (s : List Char) (n : Nat) :
    (∃ v, fromBinaryString s n = .ok v ∧ v.length = n ∧ toBinaryString v = s) ∨
      fromBinaryString s n = .error .parseError := by
  rw [fromBinaryString]
  split
  next => exact .inr rfl
  next hlen =>
    rcases binaryBits_cases s with ⟨v, hv, rfl⟩ | herr
    · exact .inl ⟨v, hv, by simpa using hlen, rfl⟩
    · exact .inr herr

theorem eq_zero_or_one_of_mem {v : BV} {ch : Char} (h : ch ∈ toBinaryString v) : ch = '0' ∨ ch = '1' := by
  obtain ⟨b, -, rfl⟩ := List.mem_map.1 h
  cases b
  · exact .inl rfl
  · exact .inr rfl

/-- Settles O10: the form is read back (`fromBinaryString_toBinaryString`), and only a form is read
(`fromBinaryString_cases`), which has the vector's length and no other digits. -/
theorem binaryStringRoundTrip : Obligations.BinaryStringRoundTrip := by
  refine ⟨fun v => ⟨toBinaryString_length v, fun i h1 h2 => ?_, fromBinaryString_toBinaryString v⟩,
    fun s n v hv => ?_, fun s n hlen => if_pos hlen, fun s ch hmem h0 h1 => ?_⟩
  · rw [toBinaryString, List.getElem?_map, getElem?_eq_bit h1 h2, Option.map_some]
  · rcases fromBinaryString_cases s n with ⟨w, hw, hform⟩ | herr
    · cases hw.symm.trans hv
      exact hform
    · cases herr.symm.trans hv
  · rcases fromBinaryString_cases s s.length with ⟨v, -, -, rfl⟩ | herr
    · exact ((eq_zero_or_one_of_mem hmem).elim h0 h1).elim
    · exact herr

/-! ### Hexadecimal digits -/

/-- R80: the digits the model computes are `0` to `9` and upper-case `A` to `F`. -/
theorem hexDigit_eq_getElem? {x : Nat} (h : x < 16) :
    ['0', '1', '2', '3', '4', '5', '6', '7', '8', '9', 'A', 'B', 'C', 'D', 'E', 'F'][x]? = some (hexDigit x) := by
  revert x
  decide

theorem digitValue_hexDigit {x : Nat} (h : x < 16) : digitValue (hexDigit x) = some x := by
  revert x
  decide

theorem toNat_lt_of_digitValue {ch : Char} (h : digitValue ch ≠ none) : ch.toNat < 103 := by
  by_contra hge
  exact h (by rw [digitValue, if_neg (by omega), if_neg (by omega), if_neg (by omega)])

/-- R81: a character with a value is one of the 22 digits. -/
theorem mem_digits_of_digitValue {ch : Char} (h : digitValue ch ≠ none) :
    ch ∈ ['0', '1', '2', '3', '4', '5', '6', '7', '8', '9', 'A', 'B', 'C', 'D', 'E', 'F',
      'a', 'b', 'c', 'd', 'e', 'f'] := by
  obtain ⟨k, hk, rfl⟩ : ∃ k < 103, Char.ofNat k = ch := ⟨_, toNat_lt_of_digitValue h, Char.ofNat_toNat ch⟩
  revert h
  revert k
  decide

theorem toNat_lt_of_isUpper {ch : Char} (h : ch.isUpper = true) : ch.toNat < 91 := by
  have hrange : 65 ≤ ch.toNat ∧ ch.toNat ≤ 90 := by simpa [Char.isUpper, UInt32.le_iff_toNat_le] using h
  omega

/-- The two letter cases of a digit have one value, and no other letter has a value (R81). -/
theorem digitValue_toLower (ch : Char) : digitValue ch.toLower = digitValue ch := by
  by_cases hup : ch.isUpper = true
  · obtain ⟨k, hk, rfl⟩ : ∃ k < 91, Char.ofNat k = ch := ⟨_, toNat_lt_of_isUpper hup, Char.ofNat_toNat ch⟩
    revert hup
    revert k
    decide
  · rw [Char.toLower_eq_of_not_isUpper hup]

/-! ### Digits of four bits -/

theorem hexPad_add_length (n : Nat) : 4 * ((hexPad n + n) / 4) = n + hexPad n := by
  unfold hexPad
  omega

theorem hexPad_eq_zero {n : Nat} (h : n % 4 = 0) : hexPad n = 0 := by
  unfold hexPad
  omega

theorem chunksOf_getElem? {w n j : Nat} (v : BV) (h : j < n) :
    (chunksOf w n v)[j]? = some ((v.drop (w * j)).take w) := by
  induction n generalizing v j with
  | zero => omega
  | succ n ih =>
    cases j with
    | zero => simp [chunksOf]
    | succ j => rw [chunksOf, List.getElem?_cons_succ, ih _ (by omega), List.drop_drop, Nat.mul_succ, Nat.add_comm]

/-- The digits of the 4-bit chunks of `w` are read back as `w`. -/
theorem hexBits_chunks {k : Nat} {w : BV} (h : w.length = k * 4) :
    hexBits ((chunksOf 4 k w).map fun q => hexDigit (val q)) = .ok w := by
  induction k generalizing w with
  | zero =>
    rw [List.eq_nil_of_length_eq_zero (by omega : w.length = 0)]
    rfl
  | succ k ih =>
    have hq : (w.take 4).length = 4 := by rw [List.length_take]; omega
    have hlt : val (w.take 4) < 16 := by simpa [hq] using val_lt (w.take 4)
    have hbv : bv 4 (val (w.take 4)) = w.take 4 := by simpa [hq] using bv_val (w.take 4)
    have hrest := ih (w := w.drop 4) (by rw [List.length_drop]; omega)
    simp only [chunksOf, List.map_cons, hexBits, digitValue_hexDigit hlt, hrest, Except.map, hbv, List.take_append_drop]

theorem hexBits_toHex (v : BV) : hexBits (toHex v) = .ok (zeros (hexPad v.length) ++ v) := by
  refine hexBits_chunks ?_
  rw [List.length_append, zeros_length, Nat.mul_comm, hexPad_add_length, Nat.add_comm]

theorem toHex_length (v : BV) : 4 * (toHex v).length = v.length + hexPad v.length := by
  rw [toHex, List.length_map, chunksOf_length, hexPad_add_length]

/-- R80: digit `j` is the digit of its 4 positions of the padded vector. -/
theorem toHex_getElem? {v : BV} {j : Nat} (h : j < (toHex v).length) :
    (toHex v)[j]? = some (hexDigit (val (((zeros (hexPad v.length) ++ v).drop (4 * j)).take 4))) := by
  rw [toHex, List.length_map, chunksOf_length] at h
  rw [toHex, List.getElem?_map, chunksOf_getElem? _ h, Option.map_some]

theorem val_take_four_lt (v : BV) : val (v.take 4) < 16 :=
  calc val (v.take 4) < 2 ^ (v.take 4).length := val_lt _
    _ ≤ 2 ^ 4 := Nat.pow_le_pow_right (by decide) (List.length_take_le 4 v)

/-! ### Reading hexadecimal -/

theorem hexBits_of_bad_digit {s : List Char} {ch : Char} (hmem : ch ∈ s) (hbad : digitValue ch = none) :
    hexBits s = .error .parseError := by
  induction s with
  | nil => cases hmem
  | cons c rest ih =>
    rw [hexBits]
    rcases List.mem_cons.1 hmem with rfl | hrest
    · rw [hbad]
    · rw [ih hrest]
      cases digitValue c <;> rfl

theorem hexBits_map_toLower (s : List Char) : hexBits (s.map Char.toLower) = hexBits s := by
  induction s with
  | nil => rfl
  | cons ch rest ih => rw [List.map_cons, hexBits, hexBits, digitValue_toLower, ih]

theorem fromHex_of_length_ne {s : List Char} {n : Nat} (h : 4 * s.length ≠ n + hexPad n) :
    fromHex s n = .error .parseError := if_pos h

theorem fromHex_of_bad_digit {s : List Char} {ch : Char} (hmem : ch ∈ s) (hbad : digitValue ch = none) (n : Nat) :
    fromHex s n = .error .parseError := by
  rw [fromHex, hexBits_of_bad_digit hmem hbad]
  exact ite_self _

/-- R81: the bits `w` of a string of the right length are the vector with its padding in front. -/
theorem fromHex_of_hexBits {s : List Char} {n : Nat} {w : BV} (hlen : 4 * s.length = n + hexPad n)
    (hw : hexBits s = .ok w) (hwlen : w.length = n + hexPad n) :
    fromHex s n = if val (w.take (hexPad n)) ≠ 0 then .error .parseError else .ok (w.drop (hexPad n)) := by
  have hrest : (w.drop (hexPad n)).take n = w.drop (hexPad n) := List.take_of_length_le (by simp [hwlen])
  rw [fromHex, if_neg (not_not.2 hlen), hw]
  simp only [hrest]

theorem val_zeros (n : Nat) : val (zeros n) = 0 := by rw [zeros, val_bv, Nat.zero_mod]

theorem fromHex_toHex (v : BV) : fromHex (toHex v) v.length = .ok v := by
  rw [fromHex_of_hexBits (toHex_length v) (hexBits_toHex v) (by simp [Nat.add_comm]), if_neg]
  · rw [List.drop_left' (zeros_length _)]
  · rw [List.take_left' (zeros_length _), val_zeros]
    exact not_not.2 rfl

/-- A padded vector is read as its own bits after the padding, if the padding is zero (R81). -/
theorem fromHex_toHex_padded {w : BV} {n : Nat} (h : w.length = n + hexPad n) :
    fromHex (toHex w) n = if val (w.take (hexPad n)) ≠ 0 then .error .parseError else .ok (w.drop (hexPad n)) := by
  have hpad : hexPad w.length = 0 := hexPad_eq_zero (by rw [h, hexPad]; omega)
  have hbits : hexBits (toHex w) = .ok w := by
    rw [hexBits_toHex, hpad]
    rfl
  exact fromHex_of_hexBits (by rw [toHex_length, hpad, h]; rfl) hbits h

/-- Settles O11: the digits are the 4-bit chunks of the padded vector (`toHex_getElem?`), which are read back
(`fromHex_toHex`, `fromHex_toHex_padded`); a digit's value does not depend on its letter case
(`digitValue_toLower`). -/
theorem hexRoundTrip : Obligations.HexRoundTrip := by
  refine ⟨fun v => ⟨toHex_length v, fun j h1 h2 => ?_, fromHex_toHex v⟩, fun s n => fromHex_of_length_ne,
    fun s n ch hmem hch => fromHex_of_bad_digit hmem ?_ n,
    fun w n hw => ⟨fun hpad => ?_, fun hpad => ?_⟩, fun s n => ?_⟩
  · rw [toHex_getElem? (by omega)]
    exact (hexDigit_eq_getElem? (val_take_four_lt _)).symm
  · exact by_contra fun hval => hch (mem_digits_of_digitValue hval)
  · exact (fromHex_toHex_padded hw).trans (if_pos hpad)
  · exact (fromHex_toHex_padded hw).trans (if_neg (not_not.2 hpad))
  · rw [fromHex, fromHex, List.length_map, hexBits_map_toLower]

end Sys2Proof.Machine
end

section
/-! SUPPORT. `Validate(T)` as a search through numbered checks, and each check as the constraint of the same
number (R93 to R107). -/

namespace Sys2Proof.Machine

/-! ### The checks by number -/

/-- The check that `Validate(T)` makes for constraint `m`; a number that is no constraint's holds. -/
def checkHolds (T : TableSet) : Nat → Bool
  | 1 => v1 T
  | 2 => v2 T
  | 3 => v3 T
  | 4 => v4 T
  | 5 => v5 T
  | 6 => v6 T
  | 7 => v7 T
  | 8 => v8 T
  | 9 => v9 T
  | 10 => v10 T
  | 11 => v11 T
  | 12 => v12 T
  | 13 => v13 T
  | 14 => v14 T
  | _ => true

theorem validate_eq_firstViolated (T : TableSet) :
    validate T = firstViolated 1 ((List.range' 1 14).map (checkHolds T)) := rfl

/-- The first violated of the checks numbered `a`, `a + 1`, …, `a + k - 1` is the one that fails after all
before it have held. -/
theorem firstViolated_range'_eq_iff (f : Nat → Bool) {a n : Nat} (k : Nat) (hn : 1 ≤ n) :
    firstViolated a ((List.range' a k).map f) = n ↔
      a ≤ n ∧ n < a + k ∧ f n = false ∧ ∀ m, a ≤ m → m < n → f m = true := by
  induction k generalizing a with
  | zero =>
    simp only [List.range'_zero, List.map_nil, firstViolated]
    omega
  | succ k ih =>
    rw [List.range'_succ, List.map_cons, firstViolated]
    cases ha : f a with
    | false =>
      rw [if_neg Bool.false_ne_true]
      constructor
      · rintro rfl
        exact ⟨le_rfl, by omega, ha, fun m h1 h2 => by omega⟩
      · rintro ⟨hle, -, -, hbefore⟩
        by_contra hne
        simp [hbefore a le_rfl (Nat.lt_of_le_of_ne hle hne)] at ha
    | true =>
      rw [if_pos rfl, ih]
      constructor
      · rintro ⟨hle, hlt, hfail, hbefore⟩
        refine ⟨by omega, by omega, hfail, fun m h1 h2 => ?_⟩
        obtain rfl | hm := Nat.eq_or_lt_of_le h1
        · exact ha
        · exact hbefore m hm h2
      · rintro ⟨hle, hlt, hfail, hbefore⟩
        have hne : a ≠ n := by
          rintro rfl
          simp [ha] at hfail
        exact ⟨by omega, by omega, hfail, fun m h1 h2 => hbefore m (by omega) h2⟩

theorem validate_eq_iff_checks (T : TableSet) {n : Nat} (hn : 1 ≤ n) :
    validate T = n ↔
      n ≤ 14 ∧ ¬ checkHolds T n = true ∧ ∀ m, 1 ≤ m → m < n → checkHolds T m = true := by
  rw [validate_eq_firstViolated, firstViolated_range'_eq_iff _ _ hn, Bool.not_eq_true]
  constructor
  · rintro ⟨-, hlt, h⟩
    exact ⟨by omega, h⟩
  · rintro ⟨hle, h⟩
    exact ⟨hn, by omega, h⟩

theorem validate_eq_zero_iff_checks (T : TableSet) :
    validate T = 0 ↔ ∀ m, 1 ≤ m → m < 15 → checkHolds T m = true := by
  rw [validate_eq_firstViolated, firstViolated_eq_zero_iff, List.forall_mem_map]
  simp only [List.mem_range'_1, and_imp]

theorem validate_le (T : TableSet) : validate T ≤ 14 := by
  obtain h0 | hpos := Nat.eq_zero_or_pos (validate T)
  · rw [h0]
    exact Nat.zero_le _
  · exact ((validate_eq_iff_checks T hpos).1 rfl).1

/-! ### A check and its constraint -/

/-- The converse of `invertsFrom_getElem`. -/
theorem invertsFrom_of_getElem {ip fp : List Nat} {i : Nat}
    (h : ∀ j t, fp[j]? = some t → tabRead ip t = some (i + j)) : invertsFrom ip i fp = true := by
  induction fp generalizing i with
  | nil => rfl
  | cons u us ih =>
    have hu : tabRead ip u = some i := h 0 u rfl
    have hus : invertsFrom ip (i + 1) us = true := ih fun j t ht => by
      rw [h (j + 1) t ht, Nat.add_assoc, Nat.add_comm 1]
    simp [invertsFrom, hu, hus]

/-- R106 ranges over the positions `1..blockBits` and the check over the entries of `finalPermutation`: the two
agree on a table of the length that V2 asks for. -/
theorem inverseCheck_iff {T : TableSet} (hlen : T.finalPermutation.length = T.blockBits) :
    v13 T = true ↔ Constraint T 13 := by
  refine ⟨inverseCheck_sound hlen, fun h => invertsFrom_of_getElem fun j t ht => ?_⟩
  have hj : j < T.finalPermutation.length := (List.getElem?_eq_some_iff.1 ht).1
  obtain ⟨u, hu, hpos, hread⟩ := h (1 + j) (by omega) (by omega)
  obtain rfl : t = u := by simpa [ht] using hu
  rw [tabRead, if_pos hpos, hread]

theorem checkHolds_iff {T : TableSet} {m : Nat}
    (hlen : m = 13 → T.finalPermutation.length = T.blockBits) : checkHolds T m = true ↔ Constraint T m := by
  match m with
  | 1 | 2 | 3 | 4 | 8 => exact isSelection_iff _ _ _
  | 5 | 10 => exact iff_of_eq Nat.beq_eq
  | 6 => exact expansionCheck_iff T
  | 7 => exact boxShapeCheck_iff T
  | 9 => simp [checkHolds, Constraint, v9]
  | 11 => exact boxEntryCheck_iff T
  | 12 => simp [checkHolds, Constraint, v12, and_assoc]
  | 13 => exact inverseCheck_iff (hlen rfl)
  | 14 => simp [checkHolds, Constraint, v14, and_assoc]
  | 0 | _ + 15 => simp [checkHolds, Constraint]

/-- A check says its own constraint once the constraints before it hold: V2 gives V13 the length it needs. -/
theorem checkHolds_iff_of_constraints {T : TableSet} {n : Nat} (h : ∀ m, 1 ≤ m → m < n → Constraint T m) :
    checkHolds T n = true ↔ Constraint T n := by
  refine checkHolds_iff fun h13 => ?_
  obtain ⟨hlen, -⟩ : Selects _ _ _ := h 2 (by decide) (by omega)
  exact hlen

/-- Up to any number the checks hold exactly when the constraints do. -/
theorem checks_below_iff (T : TableSet) (n : Nat) :
    (∀ m, 1 ≤ m → m < n → checkHolds T m = true) ↔ ∀ m, 1 ≤ m → m < n → Constraint T m := by
  constructor
  · intro h m
    induction m using Nat.strongRecOn with
    | ind m ih =>
      intro h1 hm
      have hbefore : ∀ k, 1 ≤ k → k < m → Constraint T k := fun k hk hkm => ih k hkm hk (hkm.trans hm)
      exact (checkHolds_iff_of_constraints hbefore).1 (h m h1 hm)
  · intro h m h1 hm
    have hbefore : ∀ k, 1 ≤ k → k < m → Constraint T k := fun k hk hkm => h k hk (hkm.trans hm)
    exact (checkHolds_iff_of_constraints hbefore).2 (h m h1 hm)

/-- R93 for a number of a violated constraint. -/
theorem validate_eq_iff_constraints (T : TableSet) {n : Nat} (h1 : 1 ≤ n) :
    validate T = n ↔ n ≤ 14 ∧ ¬ Constraint T n ∧ ∀ m, 1 ≤ m → m < n → Constraint T m := by
  rw [validate_eq_iff_checks T h1, checks_below_iff]
  exact and_congr_right fun _ => and_congr_left fun hbefore =>
    not_congr (checkHolds_iff_of_constraints hbefore)

/-- R93 for a table set without a violated constraint. -/
theorem validate_eq_zero_iff_constraints (T : TableSet) :
    validate T = 0 ↔ ∀ m, 1 ≤ m → m ≤ 14 → Constraint T m := by
  rw [validate_eq_zero_iff_checks, checks_below_iff]
  simp only [Nat.lt_succ_iff]

/-- Settles O12: `validate` finds the first failing check (`validate_eq_iff_checks`), and a check whose
predecessors' constraints hold says its own constraint (`checkHolds_iff_of_constraints`). -/
theorem validateReportsFirstViolation : Obligations.ValidateReportsFirstViolation := by
  refine fun T => ⟨validate_le T, validate_eq_zero_iff_constraints T, fun n h1 h14 => ?_⟩
  rw [validate_eq_iff_constraints T h1, and_iff_right h14]

/-- Settles O13: each of the three closed table sets is run through the fourteen checks. -/
theorem writtenTableSetsAreValid : Obligations.WrittenTableSetsAreValid :=
  ⟨by decide, by decide, by decide⟩

end Sys2Proof.Machine
end

section
/-! SUPPORT. The key schedule as a computation (R120, R121): what its parts gave when it gave a value, and the round
keys from the round-0 halves. -/

namespace Sys2Proof.Machine

/-! ### What each part gave -/

theorem permute_eq_ok_iff {v a : BV} {tab : List Nat} :
    permute v tab = .ok a ↔ (∀ t ∈ tab, 1 ≤ t ∧ t ≤ v.length) ∧ a = tab.map (bit v) := by
  constructor
  · intro h
    rcases permute_cases v tab with ⟨hin, hok⟩ | herr
    · exact ⟨hin, Except.ok.inj (h.symm.trans hok)⟩
    · cases h.symm.trans herr
  · rintro ⟨hin, rfl⟩
    exact permute_of_within hin

theorem split_eq_ok_iff {v a b : BV} {n : Nat} :
    split v n = .ok (a, b) ↔ n ≤ v.length ∧ a = v.take n ∧ b = v.drop n := by
  by_cases hn : n ≤ v.length
  · simp [split_of_le hn, hn, eq_comm]
  · simp [split_of_lt (Nat.not_le.1 hn), hn]

theorem initialHalves_eq_ok_iff {T : TableSet} {k c d : BV} :
    initialHalves T k = .ok (c, d) ↔
      ∃ cd, permute k T.keyPermutation1 = .ok cd ∧ split cd T.leftHalfBits = .ok (c, d) :=
  Res_bind_eq_ok _ _ _

theorem shiftAmount_eq_ok_iff {T : TableSet} {r n : Nat} (h1 : 1 ≤ r) :
    shiftAmount T r = .ok n ↔ T.shiftSchedule[r - 1]? = some n := by
  rw [shiftAmount, tabRead, if_pos h1]
  cases T.shiftSchedule[r - 1]? <;> simp

theorem scheduleRound_eq_ok_iff {T : TableSet} {r : Nat} {c d c' d' k : BV} :
    scheduleRound T r c d = .ok (c', d', k) ↔
      ∃ n, shiftAmount T r = .ok n ∧ c' = rotateLeft c n ∧ d' = rotateLeft d n ∧
        permute (concat c' d') T.keyPermutation2 = .ok k := by
  simp only [scheduleRound, Res_bind_eq_ok, Res_pure, Except.ok.injEq, Prod.mk.injEq]
  constructor
  · rintro ⟨n, hn, k', hk, rfl, rfl, rfl⟩
    exact ⟨n, hn, rfl, rfl, hk⟩
  · rintro ⟨n, hn, rfl, rfl, hk⟩
    exact ⟨n, hn, k, hk, rfl, rfl, rfl⟩

theorem scheduleRounds_cons_eq_ok_iff {T : TableSet} {r : Nat} {rs : List Nat} {c d : BV} {ks : List BV} :
    scheduleRounds T (r :: rs) c d = .ok ks ↔
      ∃ c' d' k rest, scheduleRound T r c d = .ok (c', d', k) ∧ scheduleRounds T rs c' d' = .ok rest ∧
        ks = k :: rest := by
  simp only [scheduleRounds, Res_bind_eq_ok, Res_pure, Except.ok.injEq]
  constructor
  · rintro ⟨⟨c', d', k⟩, hk, rest, hrest, rfl⟩
    exact ⟨c', d', k, rest, hk, hrest, rfl⟩
  · rintro ⟨c', d', k, rest, hk, hrest, rfl⟩
    exact ⟨(c', d', k), hk, rest, hrest, rfl⟩

theorem deriveRoundKeys_eq_ok_iff {T : TableSet} {k : BV} {ks : List BV} :
    deriveRoundKeys T k = .ok ks ↔
      k.length = T.keyBits ∧ ∃ c d, initialHalves T k = .ok (c, d) ∧
        scheduleRounds T (List.range' 1 T.roundCount) c d = .ok ks := by
  by_cases hk : k.length = T.keyBits
  · simp [deriveRoundKeys, hk, Res_bind_eq_ok]
  · simp [deriveRoundKeys_of_length_ne hk, hk]

/-! ### The round keys from the round-0 halves -/

/-- The concatenation of the halves `(C(0), D(0))` is the output of PC1 (R120). -/
theorem permute_of_initialHalves {T : TableSet} {k c d : BV} (h : initialHalves T k = .ok (c, d)) :
    permute k T.keyPermutation1 = .ok (c ++ d) := by
  obtain ⟨cd, hcd, hsplit⟩ := initialHalves_eq_ok_iff.1 h
  obtain ⟨-, rfl, rfl⟩ := split_eq_ok_iff.1 hsplit
  rwa [List.take_append_drop]

/-- The amounts of two successive rotations add (R75). -/
theorem rotateLeft_rotateLeft (v : BV) (a b : Nat) : rotateLeft (rotateLeft v a) b = rotateLeft v (a + b) := by
  simp only [rotateLeft_eq_rotate, List.rotate_rotate]

/-- The rotation `C(r)` of a round-0 half: the sum of the first `r` amounts (R121). -/
def rotatedBy (T : TableSet) (r : Nat) (v : BV) : BV := rotateLeft v (T.shiftSchedule.take r).sum

theorem rotatedBy_zero (T : TableSet) (v : BV) : rotatedBy T 0 v = v := by
  simp [rotatedBy, rotateLeft_eq_rotate]

theorem rotatedBy_succ {T : TableSet} {r n : Nat} (h : T.shiftSchedule[r]? = some n) (v : BV) :
    rotatedBy T (r + 1) v = rotateLeft (rotatedBy T r v) n := by
  obtain ⟨hr, rfl⟩ := List.getElem?_eq_some_iff.1 h
  rw [rotatedBy, rotatedBy, rotateLeft_rotateLeft, List.sum_take_succ _ _ hr]

/-- R121: when the rounds after round `a` start from the halves of round `a`, the key `j` places on is selected
from the halves of its own round. -/
theorem scheduleRounds_getElem? {T : TableSet} {c d : BV} {a m : Nat} {ks : List BV}
    (h : scheduleRounds T (List.range' (a + 1) m) (rotatedBy T a c) (rotatedBy T a d) = .ok ks) {j : Nat}
    (hj : j < m) :
    ∃ k, ks[j]? = some k ∧
      permute (rotatedBy T (a + 1 + j) c ++ rotatedBy T (a + 1 + j) d) T.keyPermutation2 = .ok k := by
  induction m generalizing a ks j with
  | zero => omega
  | succ m ih =>
    rw [List.range'_succ] at h
    obtain ⟨c', d', k, rest, hround, hrest, rfl⟩ := scheduleRounds_cons_eq_ok_iff.1 h
    obtain ⟨n, hn, rfl, rfl, hk⟩ := scheduleRound_eq_ok_iff.1 hround
    have hshift : T.shiftSchedule[a]? = some n := (shiftAmount_eq_ok_iff (Nat.succ_pos a)).1 hn
    rw [← rotatedBy_succ hshift, ← rotatedBy_succ hshift] at hk hrest
    cases j with
    | zero => exact ⟨k, rfl, hk⟩
    | succ j =>
      obtain ⟨k', hk', hsel⟩ := ih hrest (Nat.lt_of_succ_lt_succ hj)
      rw [show a + 1 + (j + 1) = a + 1 + 1 + j by omega]
      exact ⟨k', hk', hsel⟩

/-- Settles O20: a valid table set gives the halves and the keys (`initialHalves_total`, `deriveRoundKeys_total`),
and the rounds start from the halves of round 0 (`scheduleRounds_getElem?`). -/
theorem roundKeysComeFromCumulativeRotation : Obligations.RoundKeysComeFromCumulativeRotation := by
  refine fun T k hT => ⟨deriveRoundKeys_of_length_ne, fun hk => ?_⟩
  obtain ⟨c, d, hcd, hc, hd⟩ := initialHalves_total hT hk
  obtain ⟨ks, hks, hfit⟩ := deriveRoundKeys_total hT hk
  refine ⟨c, d, ks, permute_of_initialHalves hcd, hc, hd, hks, hfit, fun r h1 h2 => ?_⟩
  obtain ⟨-, c', d', hcd', hrounds⟩ := deriveRoundKeys_eq_ok_iff.1 hks
  obtain ⟨rfl, rfl⟩ := Prod.mk.inj (Except.ok.inj (hcd.symm.trans hcd'))
  rw [← rotatedBy_zero T c, ← rotatedBy_zero T d] at hrounds
  obtain ⟨rk, hrk, hsel⟩ := scheduleRounds_getElem? hrounds (show r - 1 < T.roundCount by omega)
  rw [show 0 + 1 + (r - 1) = r by omega] at hsel
  exact ⟨rk, hrk, hsel⟩

end Sys2Proof.Machine
end

section
/-! SUPPORT. The key schedule is linear (R128): each of its operations gives, from the exclusive or of two operands,
the exclusive or of the results. -/

namespace Sys2Proof.Machine

/-- `permute` reads the positions its table names and no other (R71). -/
theorem permute_congr {v w : BV} {tab : List Nat} (hlen : v.length = w.length)
    (hbits : ∀ p ∈ tab, bit v p = bit w p) : permute v tab = permute w tab := by
  rw [permute, permute, hlen, List.map_congr_left hbits]

theorem deriveRoundKeys_congr {T : TableSet} {k k' : BV} (hlen : k.length = k'.length)
    (hbits : ∀ p ∈ T.keyPermutation1, bit k p = bit k' p) : deriveRoundKeys T k = deriveRoundKeys T k' := by
  rw [deriveRoundKeys, deriveRoundKeys, initialHalves, initialHalves, hlen, permute_congr hlen hbits]

/-! ### The datapath operations on an exclusive or -/

theorem xorBits_eq_ok_iff_zipWith {v w x : BV} :
    xorBits v w = .ok x ↔ v.length = w.length ∧ x = List.zipWith (fun a b => a ^^ b) v w := by
  by_cases hlen : v.length = w.length
  · simp [xorBits_of_length hlen, hlen, eq_comm]
  · simp [xorBits_of_length_ne hlen, hlen]

theorem length_of_xorBits {v w x : BV} (h : xorBits v w = .ok x) : x.length = v.length := by
  obtain ⟨hlen, rfl⟩ := xorBits_eq_ok_iff_zipWith.1 h
  simp [hlen]

theorem bit_of_xorBits {v w x : BV} (h : xorBits v w = .ok x) {i : Nat} (h1 : 1 ≤ i) (h2 : i ≤ v.length) :
    bit x i = (bit v i ^^ bit w i) := by
  obtain ⟨hlen, rfl⟩ := xorBits_eq_ok_iff_zipWith.1 h
  exact bit_zipWith_xor hlen h1 h2

theorem xorBits_permute {v w x a b : BV} {tab : List Nat} (h : xorBits v w = .ok x)
    (ha : permute v tab = .ok a) (hb : permute w tab = .ok b) :
    ∃ y, permute x tab = .ok y ∧ xorBits a b = .ok y := by
  obtain ⟨hin, rfl⟩ := permute_eq_ok_iff.1 ha
  obtain ⟨-, rfl⟩ := permute_eq_ok_iff.1 hb
  refine ⟨_, permute_of_within (length_of_xorBits h ▸ hin), xorBits_eq_ok_iff_zipWith.2 ⟨by simp, ?_⟩⟩
  rw [List.zipWith_map, List.zipWith_self]
  exact List.map_congr_left fun p hp => bit_of_xorBits h (hin p hp).1 (hin p hp).2

theorem xorBits_split {v w x a b a' b' : BV} {n : Nat} (h : xorBits v w = .ok x)
    (hv : split v n = .ok (a, b)) (hw : split w n = .ok (a', b')) :
    ∃ p q, split x n = .ok (p, q) ∧ xorBits a a' = .ok p ∧ xorBits b b' = .ok q := by
  obtain ⟨hn, rfl, rfl⟩ := split_eq_ok_iff.1 hv
  obtain ⟨-, rfl, rfl⟩ := split_eq_ok_iff.1 hw
  have hx := length_of_xorBits h
  obtain ⟨hlen, rfl⟩ := xorBits_eq_ok_iff_zipWith.1 h
  exact ⟨_, _, split_of_le (hx ▸ hn), xorBits_eq_ok_iff_zipWith.2 ⟨by simp [hlen], List.take_zipWith⟩,
    xorBits_eq_ok_iff_zipWith.2 ⟨by simp [hlen], List.drop_zipWith⟩⟩

theorem xorBits_rotateLeft {v w x : BV} (h : xorBits v w = .ok x) (n : Nat) :
    xorBits (rotateLeft v n) (rotateLeft w n) = .ok (rotateLeft x n) := by
  obtain ⟨hlen, rfl⟩ := xorBits_eq_ok_iff_zipWith.1 h
  refine xorBits_eq_ok_iff_zipWith.2 ⟨by simp only [rotateLeft_length, hlen], ?_⟩
  simp only [rotateLeft_eq_rotate]
  exact List.zipWith_rotate_distrib _ v w n hlen

theorem xorBits_concat {v w x v' w' x' : BV} (h : xorBits v w = .ok x) (h' : xorBits v' w' = .ok x') :
    xorBits (concat v v') (concat w w') = .ok (concat x x') := by
  obtain ⟨hlen, rfl⟩ := xorBits_eq_ok_iff_zipWith.1 h
  obtain ⟨hlen', rfl⟩ := xorBits_eq_ok_iff_zipWith.1 h'
  exact xorBits_eq_ok_iff_zipWith.2 ⟨by simp [concat, hlen, hlen'], (List.zipWith_append hlen).symm⟩

/-! ### The key schedule on an exclusive or -/

theorem xorBits_initialHalves {T : TableSet} {k m km c d c' d' : BV} (h : xorBits k m = .ok km)
    (hk : initialHalves T k = .ok (c, d)) (hm : initialHalves T m = .ok (c', d')) :
    ∃ cx dx, initialHalves T km = .ok (cx, dx) ∧ xorBits c c' = .ok cx ∧ xorBits d d' = .ok dx := by
  obtain ⟨cd, hcd, hs⟩ := initialHalves_eq_ok_iff.1 hk
  obtain ⟨cd', hcd', hs'⟩ := initialHalves_eq_ok_iff.1 hm
  obtain ⟨cdx, hcdx, hx⟩ := xorBits_permute h hcd hcd'
  obtain ⟨cx, dx, hsx, hc, hd⟩ := xorBits_split hx hs hs'
  exact ⟨cx, dx, initialHalves_eq_ok_iff.2 ⟨cdx, hcdx, hsx⟩, hc, hd⟩

/-- Both schedules rotate by the amount of the round, whatever the key. -/
theorem xorBits_scheduleRound {T : TableSet} {r : Nat} {c d c₁ d₁ k₁ c' d' c₂ d₂ k₂ cx dx : BV}
    (hc : xorBits c c' = .ok cx) (hd : xorBits d d' = .ok dx)
    (h : scheduleRound T r c d = .ok (c₁, d₁, k₁)) (h' : scheduleRound T r c' d' = .ok (c₂, d₂, k₂)) :
    ∃ c₃ d₃ k₃, scheduleRound T r cx dx = .ok (c₃, d₃, k₃) ∧ xorBits c₁ c₂ = .ok c₃ ∧
      xorBits d₁ d₂ = .ok d₃ ∧ xorBits k₁ k₂ = .ok k₃ := by
  obtain ⟨n, hn, rfl, rfl, hk⟩ := scheduleRound_eq_ok_iff.1 h
  obtain ⟨n', hn', rfl, rfl, hk'⟩ := scheduleRound_eq_ok_iff.1 h'
  obtain rfl : n = n' := Except.ok.inj (hn.symm.trans hn')
  have hc₃ := xorBits_rotateLeft hc n
  have hd₃ := xorBits_rotateLeft hd n
  obtain ⟨k₃, hk₃, hx⟩ := xorBits_permute (xorBits_concat hc₃ hd₃) hk hk'
  exact ⟨_, _, k₃, scheduleRound_eq_ok_iff.2 ⟨n, hn, rfl, rfl, hk₃⟩, hc₃, hd₃, hx⟩

/-- `xs` holds, place by place, the exclusive or of the vectors of `ks` and `ms` (R128). -/
def KeywiseXor (ks ms xs : List BV) : Prop :=
  xs.length = ks.length ∧
    ∀ (i : Nat) (a b : BV), ks[i]? = some a → ms[i]? = some b → ∃ x, xorBits a b = .ok x ∧ xs[i]? = some x

theorem keywiseXor_nil : KeywiseXor [] [] [] := ⟨rfl, nofun⟩

theorem KeywiseXor.cons {k m x : BV} {ks ms xs : List BV} (hx : xorBits k m = .ok x) (h : KeywiseXor ks ms xs) :
    KeywiseXor (k :: ks) (m :: ms) (x :: xs) := by
  obtain ⟨hlen, hxs⟩ := h
  refine ⟨congrArg Nat.succ hlen, fun i a b ha hb => ?_⟩
  cases i with
  | zero =>
    obtain rfl : k = a := Option.some.inj ha
    obtain rfl : m = b := Option.some.inj hb
    exact ⟨x, hx, rfl⟩
  | succ i => exact hxs i a b ha hb

theorem keywiseXor_scheduleRounds {T : TableSet} {rs : List Nat} {c d c' d' cx dx : BV} {ks ms : List BV}
    (hc : xorBits c c' = .ok cx) (hd : xorBits d d' = .ok dx) (hk : scheduleRounds T rs c d = .ok ks)
    (hm : scheduleRounds T rs c' d' = .ok ms) :
    ∃ xs, scheduleRounds T rs cx dx = .ok xs ∧ KeywiseXor ks ms xs := by
  induction rs generalizing c d c' d' cx dx ks ms with
  | nil =>
    cases hk
    cases hm
    exact ⟨[], rfl, keywiseXor_nil⟩
  | cons r rs ih =>
    obtain ⟨c₁, d₁, k, ks, hround, hrest, rfl⟩ := scheduleRounds_cons_eq_ok_iff.1 hk
    obtain ⟨c₂, d₂, m, ms, hround', hrest', rfl⟩ := scheduleRounds_cons_eq_ok_iff.1 hm
    obtain ⟨c₃, d₃, x, hroundx, hc₃, hd₃, hx⟩ := xorBits_scheduleRound hc hd hround hround'
    obtain ⟨xs, hxs, hkeys⟩ := ih hc₃ hd₃ hrest hrest'
    exact ⟨x :: xs, scheduleRounds_cons_eq_ok_iff.2 ⟨c₃, d₃, x, xs, hroundx, hxs, rfl⟩, hkeys.cons hx⟩

/-- R128: the key schedule is linear, for every table set on which it gives a value. -/
theorem keywiseXor_deriveRoundKeys {T : TableSet} {k m km : BV} {ks ms : List BV} (h : xorBits k m = .ok km)
    (hk : deriveRoundKeys T k = .ok ks) (hm : deriveRoundKeys T m = .ok ms) :
    ∃ kms, deriveRoundKeys T km = .ok kms ∧ KeywiseXor ks ms kms := by
  obtain ⟨hlen, c, d, hcd, hrounds⟩ := deriveRoundKeys_eq_ok_iff.1 hk
  obtain ⟨-, c', d', hcd', hrounds'⟩ := deriveRoundKeys_eq_ok_iff.1 hm
  obtain ⟨cx, dx, hcdx, hc, hd⟩ := xorBits_initialHalves h hcd hcd'
  obtain ⟨kms, hkms, hkeys⟩ := keywiseXor_scheduleRounds hc hd hrounds hrounds'
  exact ⟨kms, deriveRoundKeys_eq_ok_iff.2 ⟨(length_of_xorBits h).trans hlen, cx, dx, hcdx, hkms⟩, hkeys⟩

/-- Settles O21: PC1 reads no position it leaves out (`deriveRoundKeys_congr`), and every operation after it
distributes over the exclusive or (`keywiseXor_deriveRoundKeys`). -/
theorem keyBitsAreRoutedLinearly : Obligations.KeyBitsAreRoutedLinearly :=
  ⟨fun _ _ _ => deriveRoundKeys_congr, fun _ _ _ _ _ _ _ => keywiseXor_deriveRoundKeys⟩

end Sys2Proof.Machine
end

section
/-! SUPPORT. What each store command and each length check answers on a good table set, one equation per outcome in the
order of the checks (R122, R125, R126, R161, R162, R193). -/

namespace Sys2Proof.Machine

/-! ### Answers -/

/-- A command that uses the sequencer leaves everything but its response, DOUT and the flags (R196, R21). -/
theorem answered_conclude (a : Response) (s : State) :
    Answered s (conclude a s) a s.rk (doutAfter a s.dout) (stickyAfter a s.errmask) :=
  ⟨rfl, rfl, rfl, rfl, rfl, rfl, rfl, rfl, rfl⟩

/-- An error raised in the decode step of an idle engine sets its flag and changes nothing else (R197, R199). -/
theorem raiseErr_of_idle {s : State} (hseq : s.seq = .idle) (e : Err) :
    raiseErr e s =
      .next { s with rsp := some (.error e), errmask := s.errmask ||| BitVec.twoPow 16 (errCode e) } := by
  rw [raiseErr, respond_of_idle hseq]
  rfl

theorem not_indexInRange {s : State} {idx : Nat} (h : idx < 1 ∨ s.tables.roundCount < idx) :
    ¬ indexInRange s idx = true := by
  rw [indexInRange_iff]
  omega

theorem rkRead_of_getElem? {s : State} {i : Nat} {o : Option BV} (h : s.rk[i - 1]? = some o) : rkRead s i = o := by
  rw [rkRead, h, Option.join_some]

/-! ### KEYLOAD -/

theorem execKeyload_of_length_ne {s : State} (hv : s.tsviol = 0#8) (hl : s.operand.length ≠ s.tables.keyBits) :
    execKeyload s = .next (conclude (.error .invalidKeyLength) s) := by
  rw [execKeyload, whenTablesValid_of_valid hv, deriveRoundKeys_of_length_ne hl]
  rfl

theorem execKeyload_of_keys {s : State} {ks : List BV} (hv : s.tsviol = 0#8)
    (hks : deriveRoundKeys s.tables s.operand = .ok ks) :
    execKeyload s = .next (conclude (.ok none) { s with rk := ks.map some }) := by
  rw [execKeyload, whenTablesValid_of_valid hv, hks]

/-- STATUS bit 3 is 1 on a non-empty store without a missing key (R18). -/
theorem status_keys_of_store {s : State} {ks : List BV} (hrk : s.rk = ks.map some) (hne : ks ≠ []) :
    s.status.getLsbD 3 = true := by
  obtain ⟨-, -, -, hbit, -⟩ := statusWord_bits (busyBit s) (errBit s) (tserrBit s) (keysBit s) (dvBit s)
  rw [State.status, hbit, keysBit_eq_true_iff, hrk]
  exact ⟨by simpa using hne, by simp⟩

/-- A valid table set has at least one round (V12). -/
theorem ne_nil_of_keysFit {T : TableSet} (hT : ValidTables T) {ks : List BV} (h : KeysFit T ks) : ks ≠ [] := by
  obtain ⟨hrounds, -⟩ := constraint_of_valid hT 12
  obtain ⟨hlen, -⟩ := h
  exact List.ne_nil_of_length_pos (by omega)

/-- Settles O30: the derivation gives a fitting sequence (`deriveRoundKeys_total`), which KEYLOAD stores
(`execKeyload_of_keys`). -/
theorem keyloadStoresTheDerivedKeys : Obligations.KeyloadStoresTheDerivedKeys := by
  intro s hT hv hl
  obtain ⟨ks, hks, hfit⟩ := deriveRoundKeys_total hT hl
  exact ⟨ks, _, hks, hfit, execKeyload_of_keys hv hks, answered_conclude (.ok none) { s with rk := ks.map some },
    status_keys_of_store rfl (ne_nil_of_keysFit hT hfit)⟩

/-! ### RKRD -/

theorem execRkrd_of_bad_index {s : State} {idx : Nat} (hv : s.tsviol = 0#8)
    (hi : idx < 1 ∨ s.tables.roundCount < idx) : execRkrd idx s = raiseErr .badRoundIndex s := by
  rw [execRkrd, whenTablesValid_of_valid hv, if_neg (not_indexInRange hi)]

theorem execRkrd_of_missing {s : State} {idx : Nat} (hv : s.tsviol = 0#8) (h1 : 1 ≤ idx)
    (h2 : idx ≤ s.tables.roundCount) (hk : rkRead s idx = none) :
    execRkrd idx s = raiseErr .roundKeyMissing s := by
  rw [execRkrd, whenTablesValid_of_valid hv, if_pos ((indexInRange_iff s idx).2 ⟨h1, h2⟩), hk]

theorem execRkrd_of_key {s : State} {idx : Nat} {k : BV} (hv : s.tsviol = 0#8) (h1 : 1 ≤ idx)
    (h2 : idx ≤ s.tables.roundCount) (hk : rkRead s idx = some k) :
    execRkrd idx s = .next (respond (.ok (some k)) s) := by
  rw [execRkrd, whenTablesValid_of_valid hv, if_pos ((indexInRange_iff s idx).2 ⟨h1, h2⟩), hk]

/-- Settles O28: the word is the command's encoding, and each outcome has its equation, its response writing the
flags and DOUT alone on an idle engine (`raiseErr_of_idle`, `respond_of_idle`). -/
theorem rkrdReadsOneRoundKey : Obligations.RkrdReadsOneRoundKey := by
  refine ⟨fun idx h => decodeOfEncodeIsTheCommand (.rkrd idx) (Nat.blt_eq.mpr h), fun s idx hseq hv =>
    ⟨fun hi => ?_, fun h1 h2 hk => ?_, fun k h1 h2 hk => ?_⟩⟩
  · exact (execRkrd_of_bad_index hv hi).trans (raiseErr_of_idle hseq _)
  · exact (execRkrd_of_missing hv h1 h2 (rkRead_of_getElem? hk)).trans (raiseErr_of_idle hseq _)
  · exact (execRkrd_of_key hv h1 h2 (rkRead_of_getElem? hk)).trans (congrArg _ (respond_of_idle hseq _))

/-! ### RKWR -/

theorem execRkwr_of_bad_index {s : State} {idx : Nat} (hv : s.tsviol = 0#8)
    (hi : idx < 1 ∨ s.tables.roundCount < idx) : execRkwr idx s = raiseErr .badRoundIndex s := by
  rw [execRkwr, whenTablesValid_of_valid hv, if_neg (not_indexInRange hi)]

theorem execRkwr_of_length_ne {s : State} {idx : Nat} (hv : s.tsviol = 0#8) (h1 : 1 ≤ idx)
    (h2 : idx ≤ s.tables.roundCount) (hl : s.operand.length ≠ s.tables.roundKeyBits) :
    execRkwr idx s = raiseErr .lengthMismatch s := by
  rw [execRkwr, whenTablesValid_of_valid hv, if_pos ((indexInRange_iff s idx).2 ⟨h1, h2⟩), if_neg hl]

theorem execRkwr_of_length_eq {s : State} {idx : Nat} (hv : s.tsviol = 0#8) (h1 : 1 ≤ idx)
    (h2 : idx ≤ s.tables.roundCount) (hl : s.operand.length = s.tables.roundKeyBits) :
    execRkwr idx s = .next (respond (.ok none) (rkWrite s idx s.operand)) := by
  rw [execRkwr, whenTablesValid_of_valid hv, if_pos ((indexInRange_iff s idx).2 ⟨h1, h2⟩), if_pos hl]

/-- Settles O29: the word is the command's encoding, and each outcome has its equation, its response writing the
flags and DOUT alone on an idle engine (`raiseErr_of_idle`, `respond_of_idle`). -/
theorem rkwrWritesOneRoundKey : Obligations.RkwrWritesOneRoundKey := by
  refine ⟨fun idx h => decodeOfEncodeIsTheCommand (.rkwr idx) (Nat.blt_eq.mpr h), fun s idx hseq hv =>
    ⟨fun hi => ?_, fun h1 h2 hl => ?_, fun h1 h2 hl => ?_⟩⟩
  · exact (execRkwr_of_bad_index hv hi).trans (raiseErr_of_idle hseq _)
  · exact (execRkwr_of_length_ne hv h1 h2 hl).trans (raiseErr_of_idle hseq _)
  · exact (execRkwr_of_length_eq hv h1 h2 hl).trans
      (congrArg _ (respond_of_idle (s := rkWrite s idx s.operand) hseq _))

/-! ### ENC and DEC -/

/-- On a good table set ENC and DEC are the one body they share, with an order of the keys each (R161, R162). -/
theorem exec_eq_transformCommand {i : Instr} (hi : i = .enc ∨ i = .dec) :
    ∃ order, ∀ s : State, s.tsviol = 0#8 → exec i s = transformCommand order s := by
  obtain rfl | rfl := hi <;> exact ⟨_, fun _ hv => whenTablesValid_of_valid hv _⟩

theorem transformCommand_of_length_ne {s : State} (order : List BV → List BV)
    (hl : s.operand.length ≠ s.tables.blockBits) :
    transformCommand order s = .next (conclude (.error .invalidBlockLength) s) := by
  rw [transformCommand, if_pos hl]
  rfl

theorem transformCommand_of_key_missing {s : State} (order : List BV → List BV)
    (hl : s.operand.length = s.tables.blockBits) (hk : none ∈ s.rk) :
    transformCommand order s = .next (conclude (.error .roundKeyMissing) s) := by
  rw [transformCommand, if_neg (not_not.2 hl), storedKeys, (allPresent_eq_none_iff s.rk).2 hk]
  rfl

/-- Settles O33: each check that fails is the command's answer (`execKeyload_of_length_ne`,
`transformCommand_of_length_ne`, `transformCommand_of_key_missing`). -/
theorem lengthIsCheckedBeforeKeyPresence : Obligations.LengthIsCheckedBeforeKeyPresence := by
  refine fun s hv => ⟨fun hl => ⟨_, execKeyload_of_length_ne hv hl, answered_conclude _ s⟩, fun i hi => ?_⟩
  obtain ⟨order, horder⟩ := exec_eq_transformCommand hi
  rw [horder s hv]
  exact ⟨fun hl => ⟨_, transformCommand_of_length_ne order hl, answered_conclude _ s⟩,
    fun hl hk => ⟨_, transformCommand_of_key_missing order hl hk, answered_conclude _ s⟩⟩

end Sys2Proof.Machine
end

section
/-! SUPPORT. The micro-steps of the key schedule (R123, R124). -/

namespace Sys2Proof.Machine

theorem microStep_of_ksInit {s : State} (h : s.seq = .ksInit) : microStep s = stepKsInit s := by
  rw [microStep, h]

theorem microStep_of_ksRound {s : State} {r : Nat} (h : s.seq = .ksRound r) : microStep s = stepKsRound r s := by
  rw [microStep, h]

/-- R124 before the last round: the halves and the entry of the round are written, and the next round follows. -/
theorem stepKsRound_of_lt {s : State} {r : Nat} {c d c' d' k : BV} (h1 : 1 ≤ r) (hlt : r < s.tables.roundCount)
    (hc : s.c = some c) (hd : s.d = some d) (hk : scheduleRound s.tables r c d = .ok (c', d', k)) :
    stepKsRound r s =
      .next { rkWrite { s with c := some c', d := some d' } r k with seq := .ksRound (r + 1) } := by
  rw [stepKsRound_of_schedule ((indexInRange_iff s r).2 ⟨h1, hlt.le⟩) hc hd hk, if_pos hlt]

/-- R124 in the last round: the entry of the round is written and the command is answered. -/
theorem stepKsRound_of_last {s : State} {r : Nat} {c d c' d' k : BV} (h1 : 1 ≤ r) (hlast : r = s.tables.roundCount)
    (hc : s.c = some c) (hd : s.d = some d) (hk : scheduleRound s.tables r c d = .ok (c', d', k)) :
    stepKsRound r s = .next (conclude (.ok none) (rkWrite { s with c := some c', d := some d' } r k)) := by
  rw [stepKsRound_of_schedule ((indexInRange_iff s r).2 ⟨h1, hlast.le⟩) hc hd hk, if_neg hlast.not_lt]

/-- Settles O50: KsInit by its length check and the halves (`stepKsInit_of_length_ne`, `stepKsInit_of_halves`),
KsRound by its round (`stepKsRound_of_lt`, `stepKsRound_of_last`). -/
theorem keyScheduleMicroSteps : Obligations.KeyScheduleMicroSteps := by
  refine ⟨fun s k hseq hk => ?_, fun s r n c d k hseq h1 h2 hc hd hn hk => ?_⟩
  · rw [microStep_of_ksInit hseq]
    exact ⟨fun hl => ⟨_, stepKsInit_of_length_ne hk hl, answered_conclude _ s⟩, fun cd c d hl hcd hs =>
      stepKsInit_of_halves hk hl (initialHalves_eq_ok_iff.2 ⟨cd, hcd, hs⟩)⟩
  · have hround : scheduleRound s.tables r c d = .ok (rotateLeft c n, rotateLeft d n, k) :=
      scheduleRound_eq_ok_iff.2 ⟨n, (shiftAmount_eq_ok_iff h1).2 hn, rfl, rfl, hk⟩
    rw [microStep_of_ksRound hseq]
    exact ⟨fun hlt => stepKsRound_of_lt h1 hlt hc hd hround,
      fun hlast => ⟨_, stepKsRound_of_last h1 hlast hc hd hround, answered_conclude (.ok none) _⟩⟩

end Sys2Proof.Machine
end

section
/-! SUPPORT. The round function stage by stage (R140 to R146): what each stage gave when it gave a value. -/

namespace Sys2Proof.Machine

/-! ### One box -/

/-- R144, R148: a lookup gives a value exactly when the address of the chunk names an entry that fits, and the value
is that entry. -/
theorem sboxLookup_eq_ok_iff {n : Nat} {box : List (List Nat)} {chunk o : BV} :
    sboxLookup n box chunk = .ok o ↔
      2 ≤ chunk.length ∧ ∃ row x, box[rowOf chunk]? = some row ∧ row[columnOf chunk]? = some x ∧
        x < 2 ^ n ∧ o = bv n x := by
  unfold sboxLookup
  split
  next hshort => simp [hshort]
  next hwide =>
    rw [and_iff_right (Nat.not_lt.1 hwide)]
    cases hrow : box[rowOf chunk]? with
    | none => simp
    | some row =>
      cases hx : row[columnOf chunk]? with
      | none => simp [hx]
      | some x => by_cases hfit : x < 2 ^ n <;> simp [hx, hfit, eq_comm]

theorem length_of_sboxLookup {n : Nat} {box : List (List Nat)} {chunk o : BV}
    (h : sboxLookup n box chunk = .ok o) : o.length = n := by
  obtain ⟨-, -, x, -, -, -, rfl⟩ := sboxLookup_eq_ok_iff.1 h
  exact bv_length n x

theorem rowOf_outer_bits (first last : Bool) (middle : BV) :
    rowOf (first :: (middle ++ [last])) = 2 * first.toNat + last.toNat := by
  simp [rowOf, bit]

theorem columnOf_inner_bits (first last : Bool) (middle : BV) :
    columnOf (first :: (middle ++ [last])) = val middle := by
  simp [columnOf]

/-- Settles O14: the address is the outer and the inner bits (`rowOf_outer_bits`, `columnOf_inner_bits`), and the
entry there is the one looked up (`sboxLookup_eq_ok_iff`). -/
theorem sboxAddressStaysInsideTheBox : Obligations.SboxAddressStaysInsideTheBox := by
  intro first last middle outBits x box row hrow hx hfit
  refine ⟨rowOf_outer_bits first last middle ▸ rowOf_lt _, val_lt middle, sboxLookup_eq_ok_iff.2 ⟨by simp, ?_⟩⟩
  rw [rowOf_outer_bits, columnOf_inner_bits]
  exact ⟨row, x, hrow, hx, hfit, rfl⟩

/-! ### All boxes -/

/-- R144, R145: the substitution of as many chunks as boxes is the concatenation of their outputs, chunk by chunk. -/
theorem substitute_outputs {n : Nat} {boxes : List (List (List Nat))} {chunks : List BV} {sout : BV}
    (hlen : chunks.length = boxes.length) (h : substitute n boxes chunks = .ok sout) :
    ∃ outs : List BV, outs.length = boxes.length ∧ sout = outs.flatten ∧
      ∀ (j : Nat) (box : List (List Nat)) (chunk : BV), boxes[j]? = some box → chunks[j]? = some chunk →
        ∃ o, outs[j]? = some o ∧ sboxLookup n box chunk = .ok o := by
  induction boxes generalizing chunks sout with
  | nil =>
    obtain rfl : [] = sout := by simpa [substitute] using h
    exact ⟨[], rfl, rfl, nofun⟩
  | cons box boxes ih =>
    cases chunks with
    | nil => simp at hlen
    | cons chunk chunks =>
      simp only [substitute, Res_bind_eq_ok, Res_pure, Except.ok.injEq] at h
      obtain ⟨o, ho, rest, hrest, rfl⟩ := h
      obtain ⟨outs, houts, rfl, hlook⟩ := ih (Nat.succ.inj hlen) hrest
      refine ⟨o :: outs, congrArg Nat.succ houts, rfl, fun j => ?_⟩
      cases j with
      | zero =>
        rintro _ _ ⟨⟩ ⟨⟩
        exact ⟨o, rfl, ho⟩
      | succ j => exact hlook j

/-! ### The stages -/

theorem chunksOf_of_partition {T : TableSet} {mixed : BV} {chunks : List BV}
    (h : partitionChunks T mixed = .ok chunks) :
    chunks = chunksOf (mixed.length / boxCount T) (boxCount T) mixed := by
  unfold partitionChunks at h
  split at h
  · cases h
  · exact (Except.ok.inj h).symm

theorem permute_of_outputStage {T : TableSet} {sout result : BV} (h : outputStage T sout = .ok result) :
    permute sout T.outputPermutation = .ok result := by
  obtain ⟨out, hperm, hout⟩ := (Res_bind_eq_ok _ _ _).1 h
  split at hout
  · cases hout
  · exact hperm.trans hout

/-- R140: the round function gives a value exactly when each of its stages does. -/
theorem roundFunction_eq_ok_iff {T : TableSet} {half key result : BV} :
    roundFunction T half key = .ok result ↔
      ∃ expanded, permute half T.expansionTable = .ok expanded ∧
      ∃ mixed, xorBits expanded key = .ok mixed ∧
      ∃ chunks, partitionChunks T mixed = .ok chunks ∧
      ∃ sout, substitute T.sboxOutBits T.substitutionBoxes chunks = .ok sout ∧
        outputStage T sout = .ok result := by
  simp only [roundFunction, Res_bind_eq_ok]

/-- R142: the expanded half and a round key of another width cannot be mixed. -/
theorem roundFunction_of_length_ne {T : TableSet} (hT : ValidTables T) {half key : BV}
    (hh : half.length = T.halfBits) (hk : key.length ≠ T.roundKeyBits) :
    roundFunction T half key = .error (.raise .lengthMismatch) := by
  have hkw : T.roundKeyBits = T.expandedBits := constraint_of_valid hT 10
  obtain ⟨hlen, hin⟩ := constraint_of_valid hT 6
  obtain ⟨expanded, he, hel⟩ := permute_total hh hin
  have hne : expanded.length ≠ key.length := by rw [hel, hlen, ← hkw]; exact hk.symm
  rw [roundFunction, he, Res_bind_ok, xorBits_of_length_ne hne, Res_bind_error]

/-- Settles O15: a valid table set gives a value (`roundFunction_total`), so every stage gave one
(`roundFunction_eq_ok_iff`); a round key of another width is stopped at the mixing
(`roundFunction_of_length_ne`). -/
theorem roundFunctionStagesAndWidth : Obligations.RoundFunctionStagesAndWidth := by
  refine fun T half key hT hh => ⟨roundFunction_of_length_ne hT hh, fun hk => ?_⟩
  obtain ⟨result, hF, hresult⟩ := roundFunction_total hT hh hk
  obtain ⟨expanded, he, mixed, hm, chunks, hc, sout, hs, hout⟩ := roundFunction_eq_ok_iff.1 hF
  have hel : expanded.length = T.expandedBits := (permute_length he).trans (constraint_of_valid hT 6).1
  obtain rfl : chunks = chunksOf (chunkBits T) (boxCount T) mixed := by
    rw [chunksOf_of_partition hc, length_of_xorBits hm, hel, chunkBits]
  obtain ⟨outs, houts, rfl, hlook⟩ := substitute_outputs (chunksOf_length _ _ _) hs
  refine ⟨expanded, mixed, outs, result, he, hel, hm, houts, fun j box _ hbox => ?_,
    permute_of_outputStage hout, hF, hresult⟩
  have hj : j - 1 < boxCount T := (List.getElem?_eq_some_iff.1 hbox).1
  obtain ⟨o, ho, hlookup⟩ := hlook _ _ _ hbox (chunksOf_getElem? mixed hj)
  exact ⟨o, ho, length_of_sboxLookup hlookup, Nat.mul_comm _ _ ▸ hlookup⟩

end Sys2Proof.Machine
end

section
/-! SUPPORT. The Feistel rounds run backwards (R160, R168), and the commands ENC and DEC by the transform
(R161, R162). -/

namespace Sys2Proof.Machine

/-! ### The two permutations are inverse -/

/-- V13's relation (R106): `g` reads, at the entry of `f` for a position, that position back. -/
def ReadsBack (g f : List Nat) (n : Nat) : Prop :=
  ∀ i, 1 ≤ i → i ≤ n → ∃ t, f[i - 1]? = some t ∧ 1 ≤ t ∧ g[t - 1]? = some i

theorem initial_readsBack_final {T : TableSet} (hT : ValidTables T) :
    ReadsBack T.initialPermutation T.finalPermutation T.blockBits := constraint_of_valid hT 13

/-- A permutation of `1..n` that undoes another is undone by it: its entries are distinct. -/
theorem ReadsBack.symm {g f : List Nat} {n : Nat} (h : ReadsBack g f n) (hg : Selects g n n) : ReadsBack f g n := by
  obtain ⟨hlen, hin, hnodup⟩ := hg
  intro j h1 hj
  have hjl : j - 1 < g.length := by omega
  have hread : g[j - 1]? = some g[j - 1] := List.getElem?_eq_getElem hjl
  obtain ⟨hi1, hi2⟩ := hin _ (List.getElem_mem hjl)
  obtain ⟨t, ht, ht1, hgt⟩ := h _ hi1 hi2
  have hsame : j - 1 = t - 1 := (List.getElem?_inj hjl hnodup).1 (hread.trans hgt.symm)
  obtain rfl : t = j := by omega
  exact ⟨_, hread, hi1, ht⟩

/-- R71: a position of the output is the position of the operand that the table names. -/
theorem getElem?_of_permute {v out : BV} {tab : List Nat} (h : permute v tab = .ok out) {i t : Nat}
    (ht : tab[i]? = some t) : out[i]? = v[t - 1]? := by
  obtain ⟨hin, rfl⟩ := permute_eq_ok_iff.1 h
  obtain ⟨h1, h2⟩ := hin t (List.mem_of_getElem? ht)
  rw [List.getElem?_map, ht, getElem?_eq_bit h1 h2, Option.map_some]

/-- Selecting by `g` and then by the table it undoes gives the vector back. -/
theorem ReadsBack.permute_permute {g f : List Nat} {v p : BV} (h : ReadsBack g f v.length)
    (hf : f.length = v.length) (hp : permute v g = .ok p) : permute p f = .ok v := by
  have hin : ∀ t ∈ f, 1 ≤ t ∧ t ≤ p.length := by
    intro t ht
    obtain ⟨i, hi⟩ := List.mem_iff_getElem?.1 ht
    have hil := (List.getElem?_eq_some_iff.1 hi).1
    obtain ⟨t', ht', h1, hg⟩ := h (i + 1) (Nat.succ_pos i) (by omega)
    obtain rfl : t = t' := Option.some.inj (hi.symm.trans ht')
    have hgl := (List.getElem?_eq_some_iff.1 hg).1
    rw [permute_length hp]
    omega
  obtain ⟨q, hq, hql⟩ := permute_total rfl hin
  suffices hqv : q = v by rwa [← hqv]
  refine List.ext_getElem? fun i => ?_
  by_cases hi : i < v.length
  · obtain ⟨t, ht, -, hg⟩ := h (i + 1) (Nat.succ_pos i) hi
    exact (getElem?_of_permute hq ht).trans (getElem?_of_permute hp hg)
  · rw [List.getElem?_eq_none (by omega), List.getElem?_eq_none (by omega)]

/-- R106: the initial permutation undoes the final one. -/
theorem initial_of_final {T : TableSet} (hT : ValidTables T) {v p : BV} (hv : v.length = T.blockBits)
    (hp : permute v T.finalPermutation = .ok p) : permute p T.initialPermutation = .ok v := by
  have hip : Selects _ _ _ := constraint_of_valid hT 1
  have hlen : T.initialPermutation.length = T.blockBits := hip.1
  exact (hv ▸ (initial_readsBack_final hT).symm hip).permute_permute (hlen.trans hv.symm) hp

/-- R106: the final permutation undoes the initial one. -/
theorem final_of_initial {T : TableSet} (hT : ValidTables T) {v p : BV} (hv : v.length = T.blockBits)
    (hp : permute v T.initialPermutation = .ok p) : permute p T.finalPermutation = .ok v := by
  obtain ⟨hlen, -⟩ : Selects _ _ _ := constraint_of_valid hT 2
  exact (hv ▸ initial_readsBack_final hT).permute_permute (hlen.trans hv.symm) hp

/-! ### What each part of the transform gave -/

/-- `L(0) ‖ R(0)` is the permuted block (R160). -/
theorem initialSplit_eq_ok_iff {T : TableSet} {b l r : BV} :
    initialSplit T b = .ok (l, r) ↔ permute b T.initialPermutation = .ok (concat l r) ∧ l.length = T.halfBits := by
  rw [initialSplit, Res_bind_eq_ok]
  constructor
  · rintro ⟨p, hp, hsplit⟩
    obtain ⟨hle, rfl, rfl⟩ := split_eq_ok_iff.1 hsplit
    exact ⟨by rwa [concat, List.take_append_drop], List.length_take_of_le hle⟩
  · rintro ⟨hp, hl⟩
    exact ⟨_, hp, hl ▸ split_concat l r⟩

theorem feistelRound_eq_ok_iff {T : TableSet} {k l r l' r' : BV} :
    feistelRound T k l r = .ok (l', r') ↔ ∃ f, roundFunction T r k = .ok f ∧ l' = r ∧ xorBits l f = .ok r' := by
  simp only [feistelRound, Res_bind_eq_ok, Res_pure, Except.ok.injEq, Prod.mk.injEq]
  constructor
  · rintro ⟨f, hf, x, hx, rfl, rfl⟩
    exact ⟨f, hf, rfl, hx⟩
  · rintro ⟨f, hf, rfl, hx⟩
    exact ⟨f, hf, r', hx, rfl, rfl⟩

theorem feistelRounds_nil_eq_ok_iff {T : TableSet} {l r l' r' : BV} :
    feistelRounds T [] l r = .ok (l', r') ↔ l' = l ∧ r' = r := by
  simp [feistelRounds, eq_comm]

theorem feistelRounds_cons_eq_ok_iff {T : TableSet} {k : BV} {ks : List BV} {l r : BV} {p : BV × BV} :
    feistelRounds T (k :: ks) l r = .ok p ↔
      ∃ l₁ r₁, feistelRound T k l r = .ok (l₁, r₁) ∧ feistelRounds T ks l₁ r₁ = .ok p := by
  rw [feistelRounds, Res_bind_eq_ok, Prod.exists]

theorem feistelRounds_append {T : TableSet} {ks ms : List BV} {l r l₁ r₁ : BV}
    (h : feistelRounds T ks l r = .ok (l₁, r₁)) : feistelRounds T (ks ++ ms) l r = feistelRounds T ms l₁ r₁ := by
  induction ks generalizing l r with
  | nil =>
    obtain ⟨rfl, rfl⟩ := feistelRounds_nil_eq_ok_iff.1 h
    rfl
  | cons k ks ih =>
    obtain ⟨l', r', hround, hrest⟩ := feistelRounds_cons_eq_ok_iff.1 h
    rw [List.cons_append, feistelRounds, hround, Res_bind_ok]
    exact ih hrest

theorem transform_eq_ok_iff {T : TableSet} {b out : BV} {ks : List BV} :
    transform T b ks = .ok out ↔
      b.length = T.blockBits ∧ ∃ l₀ r₀ l r, initialSplit T b = .ok (l₀, r₀) ∧
        feistelRounds T ks l₀ r₀ = .ok (l, r) ∧ permute (concat r l) T.finalPermutation = .ok out := by
  by_cases hb : b.length = T.blockBits
  · simp [transform, hb, Res_bind_eq_ok]
  · simp [transform, hb]

theorem transform_of_length_ne {T : TableSet} {b : BV} {ks : List BV} (hb : b.length ≠ T.blockBits) :
    transform T b ks = .error (.raise .invalidBlockLength) := if_pos hb

/-! ### The rounds backwards -/

/-- A round on the exchanged halves of its result gives the exchanged halves it started from (R168). -/
theorem feistelRound_backwards {T : TableSet} {k l r l' r' : BV} (h : feistelRound T k l r = .ok (l', r')) :
    feistelRound T k r' l' = .ok (r, l) := by
  obtain ⟨f, hf, rfl, hx⟩ := feistelRound_eq_ok_iff.1 h
  obtain ⟨hlen, -⟩ := xorBits_eq_ok_iff_zipWith.1 hx
  exact feistelRound_eq_ok_iff.2 ⟨f, hf, rfl, xorBits_cancel hlen hx⟩

/-- R168: with the keys reversed the rounds lead from the exchanged halves of the end to those of the start. -/
theorem feistelRounds_backwards {T : TableSet} {ks : List BV} {l r l' r' : BV}
    (h : feistelRounds T ks l r = .ok (l', r')) : feistelRounds T ks.reverse r' l' = .ok (r, l) := by
  induction ks generalizing l r with
  | nil =>
    obtain ⟨rfl, rfl⟩ := feistelRounds_nil_eq_ok_iff.1 h
    rfl
  | cons k ks ih =>
    obtain ⟨l₁, r₁, hround, hrest⟩ := feistelRounds_cons_eq_ok_iff.1 h
    rw [List.reverse_cons, feistelRounds_append (ih hrest)]
    exact feistelRounds_cons_eq_ok_iff.2 ⟨r, l, feistelRound_backwards hround, rfl⟩

/-- R168: what was transformed is transformed back by the reversed keys. -/
theorem transform_reverse {T : TableSet} (hT : ValidTables T) {b c : BV} {ks : List BV}
    (hks : ∀ k ∈ ks, k.length = T.roundKeyBits) (h : transform T b ks = .ok c) :
    transform T c ks.reverse = .ok b := by
  obtain ⟨hb, l₀, r₀, l, r, hsplit, hrounds, hfinal⟩ := transform_eq_ok_iff.1 h
  obtain ⟨l₀', r₀', hsplit', hl₀, hr₀⟩ := initialSplit_total hT hb
  obtain ⟨rfl, rfl⟩ := Prod.mk.inj (Except.ok.inj (hsplit.symm.trans hsplit'))
  obtain ⟨l', r', hrounds', hl, hr⟩ := feistelRounds_total hT hks hl₀ hr₀
  obtain ⟨rfl, rfl⟩ := Prod.mk.inj (Except.ok.inj (hrounds.symm.trans hrounds'))
  obtain ⟨hip, -⟩ := initialSplit_eq_ok_iff.1 hsplit
  have hhalves := length_concat_halves hT hl hr
  have hc : c.length = T.blockBits := by
    obtain ⟨hlen, -⟩ : Selects _ _ _ := constraint_of_valid hT 2
    exact (permute_length hfinal).trans hlen
  exact transform_eq_ok_iff.2 ⟨hc, r, l, r₀, l₀,
    initialSplit_eq_ok_iff.2 ⟨initial_of_final hT hhalves hfinal, hr⟩, feistelRounds_backwards hrounds,
    final_of_initial hT hb hip⟩

/-- Settles O18: the transform gives a value (`transform_total`), which the reversed keys lead back
(`transform_reverse`). -/
theorem transformRoundTrip : Obligations.TransformRoundTrip := by
  intro T b ks hT hb hfit
  obtain ⟨-, hks⟩ := hfit
  obtain ⟨c, hc, -⟩ := transform_total hT hb hks
  exact ⟨c, hc, transform_reverse hT hks hc⟩

/-- Settles O16: every operation of the transform fits the next (`transform_total`). -/
theorem transformWidth : Obligations.TransformWidth := fun _ _ _ hT hb hfit => transform_total hT hb hfit.2

/-! ### The recurrence -/

/-- The halves `(L(r), R(r))` follow the recurrence of R160, one round for each key. -/
def FeistelSequence (T : TableSet) (ks : List BV) (L R : Nat → BV) : Prop :=
  ∀ r k, ks[r]? = some k →
    ∃ f, roundFunction T (R r) k = .ok f ∧ L (r + 1) = R r ∧ xorBits (L r) f = .ok (R (r + 1))

/-- The sequence with `v` before it. -/
def startingWith (v : BV) (S : Nat → BV) : Nat → BV
  | 0 => v
  | r + 1 => S r

/-- The rounds run through a sequence of halves that follows the recurrence (R160). -/
theorem feistelSequence_of_rounds {T : TableSet} {ks : List BV} {l r l' r' : BV}
    (h : feistelRounds T ks l r = .ok (l', r')) :
    ∃ L R, FeistelSequence T ks L R ∧ L 0 = l ∧ R 0 = r ∧ L ks.length = l' ∧ R ks.length = r' := by
  induction ks generalizing l r with
  | nil =>
    obtain ⟨rfl, rfl⟩ := feistelRounds_nil_eq_ok_iff.1 h
    exact ⟨fun _ => l', fun _ => r', nofun, rfl, rfl, rfl, rfl⟩
  | cons k ks ih =>
    obtain ⟨l₁, r₁, hround, hrest⟩ := feistelRounds_cons_eq_ok_iff.1 h
    obtain ⟨L, R, hseq, rfl, rfl, hl', hr'⟩ := ih hrest
    obtain ⟨f, hf, hl, hx⟩ := feistelRound_eq_ok_iff.1 hround
    refine ⟨startingWith l L, startingWith r R, fun i => ?_, rfl, rfl, hl', hr'⟩
    cases i with
    | zero =>
      rintro _ ⟨⟩
      exact ⟨f, hf, hl, hx⟩
    | succ i => exact hseq i

/-- Settles O17: the parts of the transform (`transform_eq_ok_iff`) are the initial permutation, the recurrence
(`feistelSequence_of_rounds`) and the final permutation. -/
theorem transformIsTheFeistelRecurrence : Obligations.TransformIsTheFeistelRecurrence := by
  refine fun T b ks hT hfit => ⟨transform_of_length_ne, fun hb => ?_⟩
  obtain ⟨hrounds, hks⟩ := hfit
  obtain ⟨out, hout, -⟩ := transform_total hT hb hks
  obtain ⟨-, l₀, r₀, l, r, hsplit, hfeistel, hfinal⟩ := transform_eq_ok_iff.1 hout
  obtain ⟨hip, hl₀⟩ := initialSplit_eq_ok_iff.1 hsplit
  obtain ⟨L, R, hseq, rfl, rfl, rfl, rfl⟩ := feistelSequence_of_rounds hfeistel
  refine ⟨L, R, out, hl₀, hip, fun i k h1 hk => ?_, hrounds ▸ hfinal, hout⟩
  obtain ⟨i, rfl⟩ := Nat.exists_eq_add_of_le' h1
  exact hseq i k hk

/-! ### ENC and DEC -/

/-- The command of a direction: ENC for 0, DEC for 1 (R14). -/
def cipherInstr (dec : Bool) : Instr := if dec then .dec else .enc

/-- The order of the stored keys in a direction (R161, R162). -/
def keyOrder : Bool → List BV → List BV
  | false, ks => ks
  | true, ks => ks.reverse

theorem keyOrder_not (dec : Bool) (ks : List BV) : keyOrder (!dec) ks = (keyOrder dec ks).reverse := by
  cases dec <;> simp [keyOrder]

theorem keysFit_keyOrder {T : TableSet} {ks : List BV} (h : KeysFit T ks) (dec : Bool) :
    KeysFit T (keyOrder dec ks) := by
  cases dec
  · exact h
  · simpa [KeysFit, keyOrder] using h

/-- On a good table set ENC and DEC are the one body they share, each with its order of the keys. -/
theorem exec_cipherInstr {s : State} (hv : s.tsviol = 0#8) (dec : Bool) :
    exec (cipherInstr dec) s = transformCommand (keyOrder dec) s := by
  cases dec <;> exact whenTablesValid_of_valid hv _

theorem transformCommand_of_keys {s : State} {order : List BV → List BV} {ks : List BV} {out : BV}
    (hk : storedKeys s = some ks) (hout : transform s.tables s.operand (order ks) = .ok out) :
    transformCommand order s = .next (conclude (.ok (some out)) s) := by
  obtain ⟨hl, -⟩ := transform_eq_ok_iff.1 hout
  simp only [transformCommand, if_neg (not_not.2 hl), hk, hout]

/-- STATUS bit 4 is 1 when DOUT holds a value (R18). -/
theorem status_dv_of_dout {s : State} {v : BV} (h : s.dout = some v) : s.status.getLsbD 4 = true := by
  obtain ⟨-, -, -, -, hdv, -⟩ := statusBits s
  exact hdv.2 (by simp [h])

/-- R161, R162: on a good table set with a complete store the command answers the transformed operand. -/
theorem exec_cipherInstr_answers {s : State} {ks : List BV} (hT : ValidTables s.tables) (hv : s.tsviol = 0#8)
    (hl : s.operand.length = s.tables.blockBits) (hrk : s.rk = ks.map some) (hfit : KeysFit s.tables ks)
    (dec : Bool) :
    ∃ (out : BV) (t : State), transform s.tables s.operand (keyOrder dec ks) = .ok out ∧
      out.length = s.tables.blockBits ∧ exec (cipherInstr dec) s = .next t ∧
      Answered s t (.ok (some out)) s.rk (some out) s.errmask ∧ t.status.getLsbD 4 = true := by
  obtain ⟨-, hks⟩ := keysFit_keyOrder hfit dec
  obtain ⟨out, hout, hol⟩ := transform_total hT hl hks
  have hk : storedKeys s = some ks := (allPresent_eq_some_iff _ _).2 hrk
  exact ⟨out, _, hout, hol, (exec_cipherInstr hv dec).trans (transformCommand_of_keys hk hout),
    answered_conclude (.ok (some out)) s, status_dv_of_dout rfl⟩

/-- Settles O31: ENC is the command of direction 0, whose key order is the ascending one. -/
theorem encTransformsWithKeysAscending : Obligations.EncTransformsWithKeysAscending :=
  fun _ _ hT hv hl hrk hfit => exec_cipherInstr_answers hT hv hl hrk hfit false

/-- Settles O32: DEC is the command of direction 1, whose key order is the descending one. -/
theorem decTransformsWithKeysDescending : Obligations.DecTransformsWithKeysDescending :=
  fun _ _ hT hv hl hrk hfit => exec_cipherInstr_answers hT hv hl hrk hfit true

/-- Settles O34: the second command transforms the first one's answer with the keys in the other order
(`keyOrder_not`), which gives the block back (`transform_reverse`). -/
theorem encAndDecUndoEachOther : Obligations.EncAndDecUndoEachOther := by
  intro s s' ks i j hij hT hv hl hrk hfit htables htsviol hrk' hoperand
  obtain ⟨dec, rfl, rfl⟩ : ∃ dec, i = cipherInstr dec ∧ j = cipherInstr (!dec) := by
    obtain ⟨rfl, rfl⟩ | ⟨rfl, rfl⟩ := hij
    · exact ⟨false, rfl, rfl⟩
    · exact ⟨true, rfl, rfl⟩
  obtain ⟨out, t, hout, -, hexec, ⟨hrsp, -⟩, -⟩ := exec_cipherInstr_answers hT hv hl hrk hfit dec
  obtain ⟨-, hks⟩ := keysFit_keyOrder hfit dec
  have hk' : storedKeys s' = some ks := (allPresent_eq_some_iff _ _).2 (hrk'.trans hrk)
  have hback : transform s'.tables s'.operand (keyOrder (!dec) ks) = .ok s.operand := by
    rw [htables, hoperand t out hexec hrsp, keyOrder_not]
    exact transform_reverse hT hks hout
  exact ⟨_, (exec_cipherInstr (htsviol.trans hv) _).trans (transformCommand_of_keys hk' hback), rfl, rfl⟩

end Sys2Proof.Machine
end

section
/-! SUPPORT. The micro-steps of the cipher engine (R163 to R166), the transitions of the sequencer and its bounded
run to Idle (R167, R232). -/

namespace Sys2Proof.Machine

/-! ### One micro-step -/

theorem microStep_of_initial {s : State} (h : s.seq = .initial) : microStep s = stepInitial s := by
  rw [microStep, h]

theorem microStep_of_roundExecuting {s : State} {r : Nat} (h : s.seq = .roundExecuting r) :
    microStep s = stepRound r s := by
  rw [microStep, h]

theorem microStep_of_swapped {s : State} (h : s.seq = .swapped) : microStep s = stepSwapped s := by
  rw [microStep, h]

theorem microStep_of_final {s : State} (h : s.seq = .final) : microStep s = stepFinal s := by
  rw [microStep, h]

/-- Settles O51: Initial by its two checks and the split (`stepInitial_of_length_ne`,
`stepInitial_of_key_missing`, `stepInitial_of_split`). -/
theorem initialMicroStep : Obligations.InitialMicroStep := by
  intro s b hseq hb
  rw [microStep_of_initial hseq]
  refine ⟨fun hl => ⟨_, stepInitial_of_length_ne hb hl, answered_conclude _ s⟩, fun hl hk => ?_,
    fun p l r hl hk hp hlr => ?_⟩
  · exact ⟨_, stepInitial_of_key_missing hb hl ((allPresent_eq_none_iff s.rk).2 hk), answered_conclude _ s⟩
  · obtain ⟨keys, hkeys⟩ := Option.ne_none_iff_exists'.1 (mt (allPresent_eq_none_iff s.rk).1 hk)
    exact stepInitial_of_split hb hl hkeys ((Res_bind_eq_ok _ _ _).2 ⟨p, hp, hlr⟩)

/-- R164: the round key of round `r` is entry `r` for ENC and entry `roundCount + 1 − r` for DEC. -/
theorem rkRead_keyIndex {s : State} {r : Nat} {dec : Bool} {k : BV}
    (henc : dec = false → s.rk[r - 1]? = some (some k))
    (hdec : dec = true → s.rk[s.tables.roundCount - r]? = some (some k)) :
    rkRead s (keyIndex s dec r) = some k := by
  cases dec with
  | false => exact rkRead_of_getElem? (henc rfl)
  | true =>
    refine rkRead_of_getElem? (i := s.tables.roundCount + 1 - r) ?_
    rw [Nat.sub_right_comm, Nat.add_sub_cancel]
    exact hdec rfl

/-- Settles O52: a round with its key (`rkRead_keyIndex`) is one Feistel round (`stepRound_of_feistel`). -/
theorem roundMicroStep : Obligations.RoundMicroStep := by
  intro s r dir k l₀ r₀ f x hseq h1 h2 hdir henc hdec hl hr hf hx
  have hstep := stepRound_of_feistel ((indexInRange_iff s r).2 ⟨h1, h2⟩) hdir (rkRead_keyIndex henc hdec) hl hr
    (feistelRound_eq_ok_iff.2 ⟨f, hf, rfl, hx⟩)
  rw [microStep_of_roundExecuting hseq, hstep]
  exact ⟨fun hlt => by rw [if_pos hlt], fun hlast => by rw [if_neg hlast.not_lt]⟩

/-- Settles O53: both micro-steps by the registers they read (`stepSwapped_of_halves`, `stepFinal_of_permute`). -/
theorem swappedAndFinalMicroSteps : Obligations.SwappedAndFinalMicroSteps := by
  refine ⟨fun s l r hseq hl hr => ?_, fun s b out hseq hb hout => ?_⟩
  · rw [microStep_of_swapped hseq, stepSwapped_of_halves hl hr, concat]
  · rw [microStep_of_final hseq]
    exact ⟨_, stepFinal_of_permute hb hout, answered_conclude (.ok (some out)) s⟩

/-! ### Transitions -/

theorem ksInit_leads_to {s t : State} (h : s.Inv) (hs : s.seq = .ksInit) (ht : stepKsInit s = .next t) :
    t.seq = .ksRound 1 ∨ (t.seq = .idle ∧ t.rsp = some (.error .invalidKeyLength)) := by
  have hT := h.valid_of_busy (by simp [hs])
  have hregs := h.seq_inv
  rw [seqInv, hs] at hregs
  obtain ⟨k, hk⟩ := Option.ne_none_iff_exists'.1 hregs
  by_cases hl : k.length = s.tables.keyBits
  · obtain ⟨c, d, hcd, -⟩ := initialHalves_total hT hl
    rw [stepKsInit_of_halves hk hl hcd] at ht
    cases ht
    exact .inl rfl
  · rw [stepKsInit_of_length_ne hk hl] at ht
    cases ht
    exact .inr ⟨rfl, rfl⟩

theorem ksRound_leads_to {s t : State} {r : Nat} (h : s.Inv) (hs : s.seq = .ksRound r)
    (ht : stepKsRound r s = .next t) :
    if r < s.tables.roundCount then t.seq = .ksRound (r + 1) else t.seq = .idle ∧ t.rsp = some (.ok none) := by
  have hT := h.valid_of_busy (by simp [hs])
  have hregs := h.seq_inv
  rw [seqInv, hs] at hregs
  obtain ⟨h1, h2, ⟨c, hc, hcl⟩, ⟨d, hd, hdl⟩⟩ := hregs
  obtain ⟨c', d', k, hk, -⟩ := scheduleRound_total hT h1 h2 hcl hdl
  rw [stepKsRound_of_schedule ((indexInRange_iff s r).2 ⟨h1, h2⟩) hc hd hk] at ht
  cases ht
  split
  · rfl
  · exact ⟨rfl, rfl⟩

theorem initial_leads_to {s t : State} (h : s.Inv) (hs : s.seq = .initial) (ht : stepInitial s = .next t) :
    t.seq = .roundExecuting 1 ∨ (t.seq = .idle ∧
      (t.rsp = some (.error .invalidBlockLength) ∨ t.rsp = some (.error .roundKeyMissing))) := by
  have hT := h.valid_of_busy (by simp [hs])
  have hregs := h.seq_inv
  rw [seqInv, hs] at hregs
  obtain ⟨hblk, -⟩ := hregs
  obtain ⟨b, hb⟩ := Option.ne_none_iff_exists'.1 hblk
  by_cases hl : b.length = s.tables.blockBits
  · cases hk : storedKeys s with
    | none =>
      rw [stepInitial_of_key_missing hb hl hk] at ht
      cases ht
      exact .inr ⟨rfl, .inr rfl⟩
    | some keys =>
      obtain ⟨l, r, hlr, -⟩ := initialSplit_total hT hl
      rw [stepInitial_of_split hb hl hk hlr] at ht
      cases ht
      exact .inl rfl
  · rw [stepInitial_of_length_ne hb hl] at ht
    cases ht
    exact .inr ⟨rfl, .inl rfl⟩

theorem roundExecuting_leads_to {s t : State} {r : Nat} (h : s.Inv) (hs : s.seq = .roundExecuting r)
    (ht : stepRound r s = .next t) :
    if r < s.tables.roundCount then t.seq = .roundExecuting (r + 1) else t.seq = .swapped := by
  have hT := h.valid_of_busy (by simp [hs])
  have hregs := h.seq_inv
  rw [seqInv, hs] at hregs
  obtain ⟨h1, h2, hfull, hdirf, ⟨l, hl, hll⟩, ⟨x, hx, hxl⟩⟩ := hregs
  obtain ⟨dec, hdec⟩ := Option.ne_none_iff_exists'.1 hdirf
  obtain ⟨hk1, hk2⟩ := keyIndex_inRange h1 h2 dec
  obtain ⟨k, hk⟩ := rkRead_of_complete hfull h.rk_length hk1 hk2
  obtain ⟨l', x', hlx, -⟩ := feistelRound_total hT (h.rk_width k (mem_of_rkRead hk)) hll hxl
  rw [stepRound_of_feistel ((indexInRange_iff s r).2 ⟨h1, h2⟩) hdec hk hl hx hlx] at ht
  cases ht
  split <;> rfl

theorem swapped_leads_to {s t : State} (h : s.Inv) (hs : s.seq = .swapped) (ht : stepSwapped s = .next t) :
    t.seq = .final := by
  have hregs := h.seq_inv
  rw [seqInv, hs] at hregs
  obtain ⟨⟨l, hl, -⟩, ⟨r, hr, -⟩⟩ := hregs
  rw [stepSwapped_of_halves hl hr] at ht
  cases ht
  rfl

theorem final_leads_to {s t : State} (h : s.Inv) (hs : s.seq = .final) (ht : stepFinal s = .next t) :
    t.seq = .idle ∧ ∃ v, t.rsp = some (.ok (some v)) ∧ v.length = s.tables.blockBits := by
  have hT := h.valid_of_busy (by simp [hs])
  have hregs := h.seq_inv
  rw [seqInv, hs] at hregs
  obtain ⟨b, hb, hbl⟩ := hregs
  obtain ⟨out, ho, hol⟩ := finalPermutation_total hT hbl
  rw [stepFinal_of_permute hb ho] at ht
  cases ht
  exact ⟨rfl, out, rfl, hol⟩

/-- Settles O54: with the invariant the registers a micro-step reads are in place, so its checks alone decide where
it leads. -/
theorem sequencerTransitions : Obligations.SequencerTransitions := by
  intro s t h ht
  rw [microStep] at ht
  cases hs : s.seq <;> rw [hs] at ht
  case idle =>
    cases ht
    exact hs
  case ksInit => exact ksInit_leads_to h hs ht
  case ksRound r => exact ksRound_leads_to h hs ht
  case initial => exact initial_leads_to h hs ht
  case roundExecuting r => exact roundExecuting_leads_to h hs ht
  case swapped => exact swapped_leads_to h hs ht
  case final => exact final_leads_to h hs ht

/-! ### Termination -/

/-- The micro-steps that remain at most, by the state of the sequencer (R167). -/
def stepsLeft (T : TableSet) : Seq → Nat
  | .idle => 0
  | .ksInit => T.roundCount + 1
  | .ksRound r => T.roundCount + 1 - r
  | .initial => T.roundCount + 3
  | .roundExecuting r => T.roundCount + 3 - r
  | .swapped => 2
  | .final => 1

theorem stepsLeft_le (T : TableSet) (q : Seq) : stepsLeft T q ≤ T.roundCount + 3 := by
  cases q <;> simp only [stepsLeft] <;> omega

/-- A micro-step of a busy engine leaves fewer to take. -/
theorem stepsLeft_microStep {s t : State} (h : s.Inv) (hbusy : s.seq ≠ .idle) (ht : microStep s = .next t) :
    stepsLeft t.tables t.seq < stepsLeft s.tables s.seq := by
  obtain ⟨htables, -⟩ := sameSetup_microStep ht
  have hnext := sequencerTransitions s t h ht
  have hregs := h.seq_inv
  rw [seqInv] at hregs
  rw [htables]
  cases hs : s.seq <;> rw [hs] at hnext hregs
  case idle => exact absurd hs hbusy
  case ksInit => obtain hn | ⟨hn, -⟩ := hnext <;> simp [hn, stepsLeft]
  case ksRound r =>
    obtain ⟨h1, h2, -⟩ := hregs
    dsimp only at hnext
    split at hnext
    · rw [hnext, stepsLeft, stepsLeft]
      omega
    · obtain ⟨hidle, -⟩ := hnext
      rw [hidle, stepsLeft, stepsLeft]
      omega
  case initial => obtain hn | ⟨hn, -⟩ := hnext <;> simp [hn, stepsLeft]
  case roundExecuting r =>
    obtain ⟨h1, h2, -⟩ := hregs
    dsimp only at hnext
    split at hnext <;> rw [hnext, stepsLeft, stepsLeft] <;> omega
  case swapped => simp [show t.seq = .final from hnext, stepsLeft]
  case final =>
    obtain ⟨hidle, -⟩ := hnext
    simp [hidle, stepsLeft]

theorem Safe.exists_next {x : Result} (h : Safe x) : ∃ t, x = .next t ∧ t.Inv := by
  cases x with
  | next t => exact ⟨t, rfl, h⟩
  | fault f => exact h.elim
  | refused q => exact h.elim

/-- With the invariant a busy engine takes its micro-step, which keeps the invariant. -/
theorem microStep_of_busy {s : State} (h : s.Inv) (hbusy : s.seq ≠ .idle) : ∃ t, microStep s = .next t ∧ t.Inv := by
  have hrsp : s.rsp = none := Option.eq_none_iff_forall_ne_some.2 fun a ha => hbusy (h.rsp_idle a ha)
  exact (microStep_safe h hrsp).exists_next

theorem microRun_succ {s t : State} (h : microStep s = .next t) (n : Nat) : microRun (n + 1) s = microRun n t := by
  rw [microRun, h]

/-- R167, R232: no more micro-steps than `stepsLeft` says lead to Idle. -/
theorem runs_to_idle {s : State} (h : s.Inv) :
    ∃ n t, n ≤ stepsLeft s.tables s.seq ∧ microRun n s = .next t ∧ t.seq = .idle := by
  by_cases hbusy : s.seq = .idle
  · exact ⟨0, s, Nat.zero_le _, rfl, hbusy⟩
  · obtain ⟨t, ht, hinv⟩ := microStep_of_busy h hbusy
    have hfewer := stepsLeft_microStep h hbusy ht
    obtain ⟨n, u, hn, hrun, hidle⟩ := runs_to_idle hinv
    exact ⟨n + 1, u, Nat.lt_of_le_of_lt hn hfewer, (microRun_succ ht n).trans hrun, hidle⟩
termination_by stepsLeft s.tables s.seq
decreasing_by exact hfewer

/-- Settles O55: each micro-step leaves fewer (`stepsLeft_microStep`), and no more than `roundCount + 3` remain
(`stepsLeft_le`). -/
theorem everyCommandTerminates : Obligations.EveryCommandTerminates := by
  intro s h
  obtain ⟨n, t, hn, hrun⟩ := runs_to_idle h
  exact ⟨n, t, hn.trans (stepsLeft_le s.tables s.seq), hrun⟩

end Sys2Proof.Machine
end

section
/-! SUPPORT. A command by its micro-steps and by its closed form (R171, R53): the state after each micro-step, written
out from the state of the idle engine. -/

namespace Sys2Proof.Machine

/-! ### Runs -/

theorem microRun_add {s t : State} {m : Nat} (h : microRun m s = .next t) (n : Nat) :
    microRun (m + n) s = microRun n t := by
  induction m generalizing s with
  | zero =>
    cases h
    rw [Nat.zero_add]
  | succ m ih =>
    cases hu : microStep s with
    | next u =>
      rw [microRun_succ hu] at h
      rw [Nat.succ_add, microRun_succ hu]
      exact ih h
    | fault f => simp [microRun, hu] at h
    | refused q => simp [microRun, hu] at h

/-- What R171 asks of a command: its decode step and its micro-steps give the state of its closed form. -/
def Agrees (i : Instr) (s : State) : Prop :=
  ∃ u t n, startCommand i s = .next u ∧ n ≤ s.tables.roundCount + 3 ∧ microRun n u = .next t ∧ exec i s = .next t

/-- A command that completes in the decode step takes no micro-step. -/
theorem agrees_of_startCommand {i : Instr} {s : State} (h : s.Inv) (hs : s.seq = .idle)
    (hstart : startCommand i s = exec i s) : Agrees i s := by
  obtain ⟨t, ht, -⟩ := (exec_safe h hs i).exists_next
  exact ⟨t, t, 0, hstart.trans ht, Nat.zero_le _, rfl, ht⟩

/-- A bad table set is answered in the decode step (R202). -/
theorem startCommand_of_bad_tables {s : State} (hv : s.tsviol ≠ 0#8) (i : Instr) : startCommand i s = exec i s := by
  cases i
  case nop | rkrd | rkwr | clrerr => rfl
  case keyload | enc | dec => exact (whenTablesValid_of_bad hv _).trans (whenTablesValid_of_bad hv _).symm

/-! ### KEYLOAD -/

/-- The state `s` with the key schedule after its round `a`, the store then `rk` (R124). -/
def afterScheduleRound (s : State) (a : Nat) (c d : BV) (rk : List (Option BV)) : State :=
  if a < s.tables.roundCount then { s with c := some c, d := some d, rk := rk, seq := .ksRound (a + 1) }
  else conclude (.ok none) { s with rk := rk }

theorem microStep_afterScheduleRound {s : State} {a : Nat} {c d c' d' k : BV} (ha : a < s.tables.roundCount)
    (h : scheduleRound s.tables (a + 1) c d = .ok (c', d', k)) (rk : List (Option BV)) :
    microStep (afterScheduleRound s a c d rk) =
      .next (afterScheduleRound s (a + 1) c' d' (rk.set a (some k))) := by
  have hbusy : afterScheduleRound s a c d rk =
      { s with c := some c, d := some d, rk := rk, seq := .ksRound (a + 1) } := if_pos ha
  rw [hbusy, microStep_of_ksRound rfl]
  exact stepKsRound_of_schedule ((indexInRange_iff _ _).2 ⟨Nat.succ_pos a, ha⟩) rfl rfl h

theorem take_set_succ {α : Type} {xs : List α} {a : Nat} (h : a < xs.length) (x : α) :
    (xs.set a x).take (a + 1) = xs.take a ++ [x] := by
  rw [List.take_add_one, List.take_set_of_le le_rfl, List.getElem?_set_self h, Option.toList_some]

/-- R122, R124: the rounds after round `a` replace the rest of the store by their keys, and the last one answers. -/
theorem microRun_schedule {s : State} {a m : Nat} {c d : BV} {rk : List (Option BV)} {ks : List BV}
    (h : scheduleRounds s.tables (List.range' (a + 1) m) c d = .ok ks) (ham : a + m = s.tables.roundCount)
    (hrk : rk.length = s.tables.roundCount) :
    microRun m (afterScheduleRound s a c d rk) =
      .next (conclude (.ok none) { s with rk := rk.take a ++ ks.map some }) := by
  induction m generalizing a c d rk ks with
  | zero =>
    cases h
    rw [microRun, afterScheduleRound, if_neg (by omega), List.take_of_length_le (by omega), List.map_nil,
      List.append_nil]
  | succ m ih =>
    rw [List.range'_succ] at h
    obtain ⟨c', d', k, rest, hround, hrest, rfl⟩ := scheduleRounds_cons_eq_ok_iff.1 h
    rw [microRun_succ (microStep_afterScheduleRound (by omega) hround rk),
      ih hrest (by omega) ((List.length_set ..).trans hrk), take_set_succ (by omega), List.append_assoc]
    rfl

/-- The state KEYLOAD leaves its decode step with (R59, R14). -/
def keyloadStart (s : State) : State := { noResponse s with keyin := some s.operand, seq := .ksInit }

theorem agrees_keyload {s : State} (h : s.Inv) (hT : ValidTables s.tables) (hv : s.tsviol = 0#8) :
    Agrees .keyload s := by
  have hstart : startCommand .keyload s = .next (keyloadStart s) := whenTablesValid_of_valid hv _
  by_cases hl : s.operand.length = s.tables.keyBits
  · obtain ⟨ks, hks, -⟩ := deriveRoundKeys_total hT hl
    obtain ⟨-, c, d, hcd, hrounds⟩ := deriveRoundKeys_eq_ok_iff.1 hks
    obtain ⟨hpos, -⟩ := constraint_of_valid hT 12
    have hinit : microStep (keyloadStart s) = .next (afterScheduleRound (keyloadStart s) 0 c d s.rk) := by
      rw [afterScheduleRound, if_pos (show 0 < (keyloadStart s).tables.roundCount from hpos)]
      exact stepKsInit_of_halves (s := keyloadStart s) rfl hl hcd
    refine ⟨_, _, s.tables.roundCount + 1, hstart, by omega, ?_, execKeyload_of_keys hv hks⟩
    calc microRun (s.tables.roundCount + 1) (keyloadStart s)
      _ = microRun s.tables.roundCount (afterScheduleRound (keyloadStart s) 0 c d s.rk) := microRun_succ hinit _
      _ = .next (conclude (.ok none) { s with rk := ks.map some }) :=
        microRun_schedule (s := keyloadStart s) hrounds (Nat.zero_add _) h.rk_length
  · have hinit : microStep (keyloadStart s) = .next (conclude (.error .invalidKeyLength) s) :=
      stepKsInit_of_length_ne (s := keyloadStart s) rfl hl
    exact ⟨_, _, 1, hstart, by omega, microRun_succ hinit 0, execKeyload_of_length_ne hv hl⟩

/-! ### ENC and DEC -/

/-- The state `s` with the transform after its round `a` (R164). -/
def afterCipherRound (s : State) (a : Nat) (l r : BV) : State :=
  { s with
    l := some l
    r := some r
    seq := if a < s.tables.roundCount then .roundExecuting (a + 1) else .swapped }

/-- R164: the round after round `a` takes the key that stands there in the order of the direction (R161, R162). -/
theorem rkRead_of_keyOrder {s : State} {dec : Bool} {keys : List BV} {a : Nat} {k : BV}
    (hkeys : storedKeys s = some keys) (hlen : keys.length = s.tables.roundCount)
    (hk : (keyOrder dec keys)[a]? = some k) : rkRead s (keyIndex s dec (a + 1)) = some k := by
  have hrk : s.rk = keys.map some := (allPresent_eq_some_iff _ _).1 hkeys
  refine rkRead_keyIndex (fun henc => ?_) (fun hdec => ?_)
  · subst henc
    simpa [hrk, keyOrder] using hk
  · subst hdec
    have ha : a < keys.length := by simpa [keyOrder] using (List.getElem?_eq_some_iff.1 hk).1
    rw [keyOrder, List.getElem?_reverse ha] at hk
    rw [hrk, List.getElem?_map, ← hlen, Nat.add_comm, Nat.sub_add_eq, hk, Option.map_some]

theorem microStep_afterCipherRound {s : State} {dec : Bool} {keys : List BV} (hdirf : s.dirf = some dec)
    (hkeys : storedKeys s = some keys) (hlen : keys.length = s.tables.roundCount) {a : Nat} {k l r l' r' : BV}
    (ha : a < s.tables.roundCount) (hk : (keyOrder dec keys)[a]? = some k)
    (h : feistelRound s.tables k l r = .ok (l', r')) :
    microStep (afterCipherRound s a l r) = .next (afterCipherRound s (a + 1) l' r') := by
  have hseq : (afterCipherRound s a l r).seq = .roundExecuting (a + 1) := if_pos ha
  rw [microStep_of_roundExecuting hseq]
  exact stepRound_of_feistel (s := afterCipherRound s a l r) ((indexInRange_iff _ _).2 ⟨Nat.succ_pos a, ha⟩) hdirf
    (rkRead_of_keyOrder (s := afterCipherRound s a l r) hkeys hlen hk) rfl rfl h

/-- R160, R164: the micro-steps of the rounds after round `a` are the rounds of the transform by the keys left. -/
theorem microRun_cipherRounds {s : State} {dec : Bool} {keys : List BV} (hdirf : s.dirf = some dec)
    (hkeys : storedKeys s = some keys) (hlen : keys.length = s.tables.roundCount) {a : Nat} {ms : List BV}
    {l r l' r' : BV} (ham : a + ms.length = s.tables.roundCount) (hms : (keyOrder dec keys).drop a = ms)
    (h : feistelRounds s.tables ms l r = .ok (l', r')) :
    microRun ms.length (afterCipherRound s a l r) = .next (afterCipherRound s s.tables.roundCount l' r') := by
  induction ms generalizing a l r with
  | nil =>
    obtain ⟨rfl, rfl⟩ := feistelRounds_nil_eq_ok_iff.1 h
    obtain rfl : a = s.tables.roundCount := ham
    rfl
  | cons k ms ih =>
    rw [List.length_cons] at ham
    obtain ⟨l₁, r₁, hround, hrest⟩ := feistelRounds_cons_eq_ok_iff.1 h
    have hk : (keyOrder dec keys)[a]? = some k := by
      rw [← Nat.add_zero a, ← List.getElem?_drop, hms]
      rfl
    have hrestKeys : (keyOrder dec keys).drop (a + 1) = ms := by rw [← List.tail_drop, hms, List.tail_cons]
    rw [List.length_cons, microRun_succ (microStep_afterCipherRound hdirf hkeys hlen (by omega) hk hround)]
    exact ih (by omega) hrestKeys hrest

/-- The state `s` with the exchanged halves in place for the final permutation (R165). -/
def exchanged (s : State) (l r : BV) : State :=
  { afterCipherRound s s.tables.roundCount l r with blk := some (concat r l), seq := .final }

/-- R165, R166: after the last round two micro-steps answer the final permutation of the exchanged halves. -/
theorem microRun_swapped_final {s : State} {l r out : BV}
    (h : permute (concat r l) s.tables.finalPermutation = .ok out) :
    microRun 2 (afterCipherRound s s.tables.roundCount l r) = .next (conclude (.ok (some out)) s) := by
  have hseq : (afterCipherRound s s.tables.roundCount l r).seq = .swapped := if_neg (lt_irrefl _)
  have hswapped : microStep (afterCipherRound s s.tables.roundCount l r) = .next (exchanged s l r) :=
    (microStep_of_swapped hseq).trans (stepSwapped_of_halves rfl rfl)
  have hfinal : microStep (exchanged s l r) = .next (conclude (.ok (some out)) s) :=
    stepFinal_of_permute (s := exchanged s l r) rfl h
  rw [microRun_succ hswapped, microRun_succ hfinal, microRun]

/-- The state ENC and DEC leave their decode step with (R59, R14). -/
def cipherStart (dec : Bool) (s : State) : State :=
  { noResponse s with blk := some s.operand, dirf := some dec, seq := .initial }

theorem startCommand_cipherInstr {s : State} (hv : s.tsviol = 0#8) (dec : Bool) :
    startCommand (cipherInstr dec) s = .next (cipherStart dec s) := by
  cases dec <;> exact whenTablesValid_of_valid hv _

/-- A complete store: the micro-steps are the initial split, the rounds, the exchange and the final permutation. -/
theorem microRun_cipher_of_keys {s : State} {dec : Bool} {keys : List BV} {out : BV} (hpos : 1 ≤ s.tables.roundCount)
    (hkeys : storedKeys s = some keys) (hlen : keys.length = s.tables.roundCount)
    (h : transform s.tables s.operand (keyOrder dec keys) = .ok out) :
    microRun ((keyOrder dec keys).length + 2 + 1) (cipherStart dec s) = .next (conclude (.ok (some out)) s) := by
  obtain ⟨hl, l₀, r₀, l, r, hsplit, hrounds, hfinal⟩ := transform_eq_ok_iff.1 h
  have hinit : microStep (cipherStart dec s) = .next (afterCipherRound (cipherStart dec s) 0 l₀ r₀) := by
    rw [afterCipherRound, if_pos (show 0 < (cipherStart dec s).tables.roundCount from hpos)]
    exact stepInitial_of_split (s := cipherStart dec s) rfl hl hkeys hsplit
  have hrun := microRun_cipherRounds (s := cipherStart dec s) (a := 0) (ms := keyOrder dec keys) rfl hkeys hlen
    (by cases dec <;> simp [keyOrder, hlen, cipherStart]) rfl hrounds
  rw [microRun_succ hinit, microRun_add hrun]
  exact microRun_swapped_final (s := cipherStart dec s) hfinal

theorem agrees_cipherInstr {s : State} (h : s.Inv) (hT : ValidTables s.tables) (hv : s.tsviol = 0#8) (dec : Bool) :
    Agrees (cipherInstr dec) s := by
  have hstart := startCommand_cipherInstr hv dec
  have hexec := exec_cipherInstr hv dec
  by_cases hl : s.operand.length = s.tables.blockBits
  · cases hkeys : storedKeys s with
    | none =>
      have hinit : microStep (cipherStart dec s) = .next (conclude (.error .roundKeyMissing) s) :=
        stepInitial_of_key_missing (s := cipherStart dec s) rfl hl hkeys
      exact ⟨_, _, 1, hstart, by omega, microRun_succ hinit 0,
        hexec.trans (transformCommand_of_key_missing _ hl ((allPresent_eq_none_iff s.rk).1 hkeys))⟩
    | some keys =>
      obtain ⟨hpos, -⟩ := constraint_of_valid hT 12
      have hfit := h.stored.keysFit hkeys
      obtain ⟨hlen, hw⟩ := keysFit_keyOrder hfit dec
      obtain ⟨out, hout, -⟩ := transform_total hT hl hw
      exact ⟨_, _, _, hstart, by omega, microRun_cipher_of_keys hpos hkeys hfit.1 hout,
        hexec.trans (transformCommand_of_keys hkeys hout)⟩
  · have hinit : microStep (cipherStart dec s) = .next (conclude (.error .invalidBlockLength) s) :=
      stepInitial_of_length_ne (s := cipherStart dec s) rfl hl
    exact ⟨_, _, 1, hstart, by omega, microRun_succ hinit 0,
      hexec.trans (transformCommand_of_length_ne _ hl)⟩

/-- Settles O56: what completes in the decode step takes no micro-step (`agrees_of_startCommand`); on a good table
set KEYLOAD, ENC and DEC run through the rounds of their closed forms (`agrees_keyload`, `agrees_cipherInstr`). -/
theorem microStepsEqualTheClosedForm : Obligations.MicroStepsEqualTheClosedForm := by
  intro i s h hs
  by_cases hv : s.tsviol = 0#8
  · have hT := h.stored.tsviol_eq_zero_iff.1 hv
    cases i
    case keyload => exact agrees_keyload h hT hv
    case enc => exact agrees_cipherInstr h hT hv false
    case dec => exact agrees_cipherInstr h hT hv true
    case nop | rkrd | rkwr | clrerr => exact agrees_of_startCommand h hs rfl
  · exact agrees_of_startCommand h hs (startCommand_of_bad_tables hv i)

end Sys2Proof.Machine
end

section
/-! SUPPORT. The control commands NOP (R180) and CLRERR (R181), and what every other command answers on a bad table
set (R202). -/

namespace Sys2Proof.Machine

/-- The words of a command: the encoding of a well-formed one, and no other. -/
theorem decode_eq_ok_iff {w : CmdWord} {i : Instr} : decode w = .ok i ↔ i.wellFormed = true ∧ encode i = w := by
  refine ⟨legalWordsAreEncodings w i, ?_⟩
  rintro ⟨hwf, rfl⟩
  exact decodeOfEncodeIsTheCommand i hwf

/-- A command without an index is one word alone. -/
theorem decode_eq_ok_iff_eq_encode {i : Instr} (hwf : i.wellFormed = true) (w : CmdWord) :
    decode w = .ok i ↔ w = encode i := by
  rw [decode_eq_ok_iff, eq_comm (a := w)]
  exact and_iff_right hwf

/-- With TSERR = 1 every command but NOP answers MalformedTableSet and goes no further (R202). -/
theorem exec_of_bad_tables {i : Instr} {s : State} (hi : i ≠ .nop) (hv : s.tsviol ≠ 0#8) :
    exec i s = .next (respond (.error .malformedTableSet) s) := by
  cases i
  case nop => exact absurd rfl hi
  case keyload | rkrd | rkwr | enc | dec | clrerr => exact whenTablesValid_of_bad hv _

/-- Settles O26: the word is the command's encoding, NOP's response writes the response lines alone on an idle engine
(`respond_of_idle`), and any other command answers an error on a bad table set (`exec_of_bad_tables`). -/
theorem nopAnswersOkAndWritesNothing : Obligations.NopAnswersOkAndWritesNothing := by
  refine ⟨decode_eq_ok_iff_eq_encode rfl, fun s hseq => congrArg _ (respond_of_idle hseq _),
    fun i s t d hv ht hok => ?_⟩
  by_contra hi
  rw [exec_of_bad_tables hi hv] at ht
  cases ht
  cases hok

/-- Settles O27: the word is the command's encoding, the answer on a good and on a bad table set is the response of an
idle engine (`respond_of_idle`, `raiseErr_of_idle`), and STATUS.ERR is 0 with ERRMASK clear (`statusBits`). -/
theorem clrerrClearsTheStickyFlags : Obligations.ClrerrClearsTheStickyFlags := by
  refine ⟨decode_eq_ok_iff_eq_encode rfl, fun s hseq => ⟨fun hv => ?_, fun hv => ?_, fun t ht hv => ?_⟩⟩
  · exact (whenTablesValid_of_valid hv _).trans
      (congrArg _ (respond_of_idle (s := { s with errmask := 0#16 }) hseq _))
  · exact (whenTablesValid_of_bad hv _).trans (raiseErr_of_idle hseq _)
  · obtain ⟨hbad, -⟩ | ⟨-, rfl⟩ := execClrerr_next ht
    · exact absurd hv hbad
    · obtain ⟨-, herr, -⟩ := statusBits (respond (.ok none) { s with errmask := 0#16 })
      rw [← Bool.not_eq_true, herr]
      exact not_not.2 rfl

end Sys2Proof.Machine
end

section
/-! SUPPORT. What an error response changes (R197, R198), what a step does to ERRMASK (R199), which errors a step can
answer (R190, R192, R193), and what a bad table set refuses (R202). -/

namespace Sys2Proof.Machine

/-- Settles O22: the codes are the table of R190, read by `responseCode`. -/
theorem responseCodes : Obligations.ResponseCodes := ⟨fun _ => rfl, rfl⟩

/-! ### What a failing command changes -/

/-- A command that completes in the decode step leaves everything but its response, DOUT and the flags (R196). -/
theorem answered_respond (a : Response) (s : State) :
    Answered s (respond a s) a s.rk (doutAfter a s.dout) (stickyAfter a s.errmask) :=
  ⟨rfl, rfl, rfl, rfl, rfl, rfl, rfl, rfl, rfl⟩

/-- A command that answers an error does so on the store and the flags it found (R197). -/
theorem exec_next_of_error {i : Instr} {s t : State} {e : Err} (h : exec i s = .next t)
    (he : t.rsp = some (.error e)) : t = respond (.error e) s ∨ t = conclude (.error e) s := by
  obtain ⟨a, rk, em, ht, hrk, hem⟩ := exec_next h
  obtain rfl : a = .error e := by
    rcases ht with rfl | rfl <;> exact Option.some.inj he
  obtain rfl | ⟨d, hd⟩ := hrk
  · obtain rfl | ⟨-, -, ha⟩ := hem
    · exact ht
    · cases ha
  · cases hd

/-- Settles O25: the command ends with its error on the state it found (`exec_next_of_error`), which leaves the store,
and DOUT since an error has no data. -/
theorem failedCommandsChangeOnlyTheFlags : Obligations.FailedCommandsChangeOnlyTheFlags := by
  intro i s t e h he
  obtain rfl | rfl := exec_next_of_error h he
  · exact answered_respond (.error e) s
  · exact answered_conclude (.error e) s

/-! ### ERRMASK -/

/-- From `s` to `t` ERRMASK takes the flag of the response issued, if any (R199). -/
def FlagsFollow (s t : State) : Prop :=
  (∃ a, t.rsp = some a ∧ t.errmask = stickyAfter a s.errmask) ∨ (t.rsp = none ∧ t.errmask = s.errmask)

/-- `t` is the answer of CLRERR on a good table set: OK, with ERRMASK clear (R181). -/
def FlagsCleared (i : Instr) (t : State) : Prop := i = .clrerr ∧ t.rsp = some (.ok none) ∧ t.errmask = 0#16

theorem flagsFollow_conclude (a : Response) {s t : State} (h : t.errmask = s.errmask) :
    FlagsFollow s (conclude a t) :=
  .inl ⟨a, rfl, congrArg (stickyAfter a) h⟩

theorem flags_exec {i : Instr} {s t : State} (h : exec i s = .next t) : FlagsFollow s t ∨ FlagsCleared i t := by
  obtain ⟨a, rk, em, ht, -, rfl | ⟨rfl, rfl, rfl⟩⟩ := exec_next h
  · exact .inl (by obtain rfl | rfl := ht <;> exact .inl ⟨a, rfl, rfl⟩)
  · exact .inr (by obtain rfl | rfl := ht <;> exact ⟨rfl, rfl, rfl⟩)

theorem flags_startCommand {i : Instr} {s t : State} (h : startCommand i s = .next t) :
    FlagsFollow s t ∨ FlagsCleared i t := by
  rcases startCommand_next h with h | ⟨-, rfl⟩ | ⟨-, -, rfl⟩ | ⟨-, dec, -, rfl⟩
  · exact flags_exec h
  · exact .inl (.inl ⟨_, rfl, rfl⟩)
  · exact .inl (.inr ⟨rfl, rfl⟩)
  · exact .inl (.inr ⟨rfl, rfl⟩)

theorem flagsFollow_stepKsRound {r : Nat} {s t : State} (hrsp : s.rsp = none) (h : stepKsRound r s = .next t) :
    FlagsFollow s t := by
  obtain ⟨-, ⟨e, rfl⟩ | ⟨c, d, c', d', k, -, -, -, rfl⟩⟩ := stepKsRound_next h
  · exact flagsFollow_conclude _ rfl
  · split
    · exact .inr ⟨hrsp, rfl⟩
    · exact flagsFollow_conclude _ rfl

theorem flagsFollow_microStep {s t : State} (hrsp : s.rsp = none) (h : microStep s = .next t) : FlagsFollow s t := by
  rw [microStep] at h
  cases hs : s.seq <;> rw [hs] at h
  case idle =>
    cases h
    exact .inr ⟨hrsp, rfl⟩
  case ksInit =>
    obtain ⟨e, rfl⟩ | ⟨k, c, d, -, -, -, rfl⟩ := stepKsInit_next h
    · exact flagsFollow_conclude _ rfl
    · exact .inr ⟨hrsp, rfl⟩
  case ksRound r => exact flagsFollow_stepKsRound hrsp h
  case initial =>
    obtain ⟨e, rfl⟩ | ⟨b, l, r, -, -, -, -, rfl⟩ := stepInitial_next h
    · exact flagsFollow_conclude _ rfl
    · exact .inr ⟨hrsp, rfl⟩
  case roundExecuting r =>
    obtain ⟨-, ⟨e, rfl⟩ | ⟨dec, k, l, r, l', r', -, -, -, -, -, rfl⟩⟩ := stepRound_next h
    · exact flagsFollow_conclude _ rfl
    · exact .inr ⟨hrsp, rfl⟩
  case swapped =>
    obtain ⟨e, rfl⟩ | ⟨l, r, -, -, rfl⟩ := stepSwapped_next h
    · exact flagsFollow_conclude _ rfl
    · exact .inr ⟨hrsp, rfl⟩
  case final =>
    obtain ⟨e, rfl⟩ | ⟨b, out, -, -, rfl⟩ := stepFinal_next h <;> exact flagsFollow_conclude _ rfl

/-- Without reset, the flags follow the response of a look unless it accepts a CLRERR that clears them. -/
theorem flags_actOnLines {s u : State} (h : actOnLines s = .next u) (hrst : s.line.rst = false) :
    FlagsFollow s u ∨
      (s.seq = .idle ∧ s.line.cmdValid = true ∧ ∃ i, decode s.line.cmdWord = .ok i ∧ FlagsCleared i u) := by
  rcases actOnLines_next h with
    ⟨hr, -⟩ | ⟨-, ⟨-, -, rfl⟩ | ⟨-, -, -, rfl⟩ | ⟨hs, hv, i, hi, ⟨-, hc⟩ | ⟨-, hc⟩⟩ | ⟨-, hm⟩⟩
  · rw [hrst] at hr
    cases hr
  · exact .inl (.inr ⟨rfl, rfl⟩)
  · exact .inl (.inl ⟨_, rfl, rfl⟩)
  · exact (flags_startCommand hc).imp_right fun hclr => ⟨hs, hv, i, hi, hclr⟩
  · exact (flags_exec hc).imp_right fun hclr => ⟨hs, hv, i, hi, hclr⟩
  · exact .inl (flagsFollow_microStep rfl hm : FlagsFollow (noResponse s) u)

/-- Settles O24: ERRMASK is `stickyAfter` of the one response, which sets the bit of an error and none for OK, except
after CLRERR (`flags_actOnLines`). -/
theorem stickyFlagsFollowResponses : Obligations.StickyFlagsFollowResponses := by
  intro s t h hrst
  obtain ⟨u, hu, rfl⟩ := step_next h
  simp only [nextLook_rsp, nextLook_errmask]
  rcases flags_actOnLines hu hrst with (⟨a, hrsp, hmask⟩ | ⟨hrsp, hmask⟩) | ⟨hs, hv, i, hi, rfl, hrsp, hmask⟩
  · rw [hrsp, hmask]
    cases a with
    | ok d => exact ⟨nofun, nofun, fun _ _ => .inl rfl⟩
    | error e =>
      refine ⟨fun e' he => ?_, nofun, nofun⟩
      cases he
      rfl
  · rw [hrsp]
    exact ⟨nofun, fun _ => hmask, nofun⟩
  · rw [hrsp]
    exact ⟨nofun, nofun, fun _ _ => .inr ⟨hmask, hs, hv, hi⟩⟩

/-! ### Which errors are answered -/

/-- The errors a command may answer, in the order of its checks (R193). -/
def commandErrors : Instr → List Err
  | .nop => []
  | .keyload => [.malformedTableSet, .invalidKeyLength]
  | .rkrd _ => [.malformedTableSet, .badRoundIndex, .roundKeyMissing]
  | .rkwr _ => [.malformedTableSet, .badRoundIndex, .lengthMismatch]
  | .enc => [.malformedTableSet, .invalidBlockLength, .roundKeyMissing]
  | .dec => [.malformedTableSet, .invalidBlockLength, .roundKeyMissing]
  | .clrerr => [.malformedTableSet]

/-- The errors that are answered otherwise than by a whole command: by the decode step and by the micro-steps. -/
def sequencerErrors : List Err :=
  [.illegalCommand, .malformedTableSet, .invalidKeyLength, .invalidBlockLength, .roundKeyMissing]

/-- With a valid table set the derivation fails on the key's length alone (R120, R192). -/
theorem deriveRoundKeys_error {T : TableSet} (hT : ValidTables T) {k : BV} {x : Stop}
    (h : deriveRoundKeys T k = .error x) : x = .raise .invalidKeyLength := by
  by_cases hl : k.length = T.keyBits
  · obtain ⟨keys, hk, -⟩ := deriveRoundKeys_total hT hl
    rw [hk] at h
    cases h
  · rw [deriveRoundKeys_of_length_ne hl] at h
    cases h
    rfl

/-- ENC and DEC answer no error beside those of their checks: the transform of a block with the stored keys gives a
value (R192). -/
theorem checkedTransform_error {s t : State} {e : Err} (h : s.Inv) {order : List BV → List BV}
    (horder : ∀ ks, ∀ k ∈ order ks, k ∈ ks)
    (ht : whenTablesValid s (transformCommand order s) = .next t) (he : t.rsp = some (.error e)) :
    e = .malformedTableSet ∨ e = .invalidBlockLength ∨ e = .roundKeyMissing := by
  rcases whenTablesValid_next ht with ⟨-, rfl⟩ | ⟨hv, ht⟩
  · cases he
    exact .inl rfl
  · rcases transformCommand_next ht with ⟨-, rfl⟩ | ⟨hl, ⟨-, rfl⟩ | ⟨keys, hk, ⟨x, hx, rfl⟩ | ⟨out, -, rfl⟩⟩⟩
    · cases he
      exact .inr (.inl rfl)
    · cases he
      exact .inr (.inr rfl)
    · obtain ⟨out, hout, -⟩ := transform_total (h.stored.tsviol_eq_zero_iff.1 hv) hl (ks := order keys)
        fun k hmem => (h.stored.keysFit hk).2 k (horder keys k hmem)
      rw [hout] at hx
      cases hx
    · cases he

/-- From the invariant a command answers the errors of its own checks alone (R192, R193). -/
theorem exec_error {i : Instr} {s t : State} {e : Err} (h : s.Inv) (ht : exec i s = .next t)
    (he : t.rsp = some (.error e)) : e ∈ commandErrors i := by
  cases i with
  | nop =>
    cases ht
    cases he
  | keyload =>
    rcases execKeyload_next ht with ⟨-, rfl⟩ | ⟨hv, ⟨x, hx, rfl⟩ | ⟨keys, -, rfl⟩⟩ <;> cases he
    · exact List.mem_cons_self
    · cases deriveRoundKeys_error (h.stored.tsviol_eq_zero_iff.1 hv) hx
      simp [commandErrors]
  | rkrd idx =>
    rcases execRkrd_next ht with ⟨x, hx, rfl⟩ | ⟨-, -, k, -, rfl⟩ <;> cases he
    simpa [commandErrors] using hx
  | rkwr idx =>
    rcases execRkwr_next ht with ⟨x, hx, rfl⟩ | ⟨-, -, -, rfl⟩ <;> cases he
    simpa [commandErrors] using hx
  | enc => simpa [commandErrors] using checkedTransform_error h (fun _ _ hk => hk) ht he
  | dec => simpa [commandErrors] using checkedTransform_error h (fun _ _ => List.mem_reverse.1) ht he
  | clrerr =>
    rcases execClrerr_next ht with ⟨-, rfl⟩ | ⟨-, rfl⟩ <;> cases he
    exact List.mem_cons_self

/-- The decode step adds the table-set check alone (R59). -/
theorem startCommand_error {i : Instr} {s t : State} {e : Err} (h : s.Inv) (ht : startCommand i s = .next t)
    (he : t.rsp = some (.error e)) : e = .malformedTableSet ∨ e ∈ commandErrors i := by
  rcases startCommand_next ht with ht | ⟨-, rfl⟩ | ⟨-, -, rfl⟩ | ⟨-, dec, -, rfl⟩
  · exact .inr (exec_error h ht he)
  · cases he
    exact .inl rfl
  · cases he
  · cases he

/-- R167: the micro-steps answer the errors of the length and key-presence checks alone. -/
theorem microStep_error {s t : State} {e : Err} (h : s.Inv) (hrsp : s.rsp = none) (ht : microStep s = .next t)
    (he : t.rsp = some (.error e)) : e = .invalidKeyLength ∨ e = .invalidBlockLength ∨ e = .roundKeyMissing := by
  have hinv := microStep_safe h hrsp
  rw [ht] at hinv
  have hidle : t.seq = .idle := State.Inv.rsp_idle hinv _ he
  have hnext := sequencerTransitions s t h ht
  rw [he, hidle] at hnext
  cases hs : s.seq <;> rw [hs] at hnext
  case idle =>
    rw [microStep, hs] at ht
    cases ht
    rw [hrsp] at he
    cases he
  case ksInit => exact .inl (by simpa using hnext)
  case initial => exact .inr (by simpa using hnext)
  case ksRound | roundExecuting | swapped | final => simp at hnext

/-- Every error a step answers is one of the sequencer's, or one of those of the command it accepts. -/
theorem step_error {s t : State} {e : Err} (h : s.Inv) (ht : step s = .next t) (he : t.rsp = some (.error e)) :
    e ∈ sequencerErrors ∨ (s.seq = .idle ∧ ∃ i, decode s.line.cmdWord = .ok i ∧ e ∈ commandErrors i) := by
  obtain ⟨u, hu, rfl⟩ := step_next ht
  rw [nextLook_rsp] at he
  rcases actOnLines_next hu with
    ⟨-, rfl⟩ | ⟨-, ⟨-, -, rfl⟩ | ⟨-, -, -, rfl⟩ | ⟨hs, -, i, hi, ⟨-, hc⟩ | ⟨-, hc⟩⟩ | ⟨-, hm⟩⟩
  · cases he
  · cases he
  · cases he
    exact .inl (by decide)
  · obtain rfl | hmem := startCommand_error h hc he
    · exact .inl (by decide)
    · exact .inr ⟨hs, i, hi, hmem⟩
  · exact .inr ⟨hs, i, hi, exec_error h hc he⟩
  · obtain rfl | rfl | rfl := microStep_error h.noResponse rfl hm he <;> exact .inl (by decide)

/-- R192: the errors that no step answers. -/
def InternalError (e : Err) : Prop :=
  e = .parseError ∨ e = .blockSizeMismatch ∨ e = .outputWidthMismatch ∨ e = .indexOutOfRange ∨ e = .invalidWidth

theorem sequencerErrors_not_internal : ∀ e ∈ sequencerErrors, ¬ InternalError e ∧ e ≠ .lengthMismatch := by
  simp [sequencerErrors, InternalError]

theorem commandErrors_not_internal (i : Instr) :
    ∀ e ∈ commandErrors i, ¬ InternalError e ∧ (e = .lengthMismatch → ∃ idx, i = .rkwr idx) := by
  cases i <;> simp [commandErrors, InternalError]

/-- Settles O60: with the invariant no datapath operation fails, so a step answers an error of the sequencer's checks
or of the command it accepts (`step_error`), and only RKWR's list has LengthMismatch. -/
theorem internalErrorsAreUnreachable : Obligations.InternalErrorsAreUnreachable := by
  intro s t e h ht he
  have hanswer : ¬ InternalError e ∧
      (e = .lengthMismatch → s.seq = .idle ∧ ∃ idx, decode s.line.cmdWord = .ok (.rkwr idx)) := by
    obtain hmem | ⟨hs, i, hi, hmem⟩ := step_error h ht he
    · obtain ⟨hint, hlen⟩ := sequencerErrors_not_internal e hmem
      exact ⟨hint, fun hl => absurd hl hlen⟩
    · obtain ⟨hint, hrkwr⟩ := commandErrors_not_internal i e hmem
      refine ⟨hint, fun hl => ⟨hs, ?_⟩⟩
      obtain ⟨idx, rfl⟩ := hrkwr hl
      exact ⟨idx, hi⟩
  simpa only [InternalError, not_or, and_assoc] using hanswer

/-! ### A bad table set -/

/-- R202, R59: with TSERR = 1 a legal word but NOP is refused in either grain. -/
theorem step_of_bad_tables {s : State} {i : Instr} (hrst : s.line.rst = false) (hseq : s.seq = .idle)
    (hvalid : s.line.cmdValid = true) (hi : decode s.line.cmdWord = .ok i) (hnop : i ≠ .nop) (hv : s.tsviol ≠ 0#8) :
    step s = afterLook (raiseErr .malformedTableSet s) := by
  rw [step_of_legal hrst hseq hvalid hi, startCommand_of_bad_tables hv, ite_self, exec_of_bad_tables hnop hv, raiseErr]

/-- R20: a TSVIOL that holds `Validate(T)` keeps its value, through reset as well. -/
theorem step_keeps_tsviol {s t : State} (hs : s.tsviol = BitVec.ofNat 8 (validate s.tables)) (h : step s = .next t) :
    t.tsviol = s.tsviol := by
  cases hrst : s.line.rst with
  | false =>
    obtain ⟨-, htsviol, -⟩ := noStepChangesTheTableSet s t h
    exact htsviol hrst
  | true =>
    obtain ⟨u, hu, rfl⟩ := step_next h
    rcases actOnLines_next hu with ⟨-, rfl⟩ | ⟨hr, -⟩
    · exact hs.symm
    · rw [hrst] at hr
      cases hr

/-- Settles O44: `Validate(T)` fits TSVIOL (`tsviol_word_eq_zero_iff`), the refused command raises MalformedTableSet on
an idle engine (`step_of_bad_tables`, `raiseErr_of_idle`), and TSVIOL stays (`step_keeps_tsviol`). -/
theorem badTableSetRefusesAllWork : Obligations.BadTableSetRefusesAllWork := by
  refine ⟨fun T _ _ hT => mt (tsviol_word_eq_zero_iff T).1 hT,
    fun s i hrst hseq hvalid hi hnop hv => ?_, fun s t => step_keeps_tsviol⟩
  rw [step_of_bad_tables hrst hseq hvalid hi hnop hv, raiseErr_of_idle hseq]
  rfl

end Sys2Proof.Machine
end

section
/-! SUPPORT. What the ports show while a command is in progress (R229) and while `rst` is held, and the step that
resets the engine (R220, R222). -/

namespace Sys2Proof.Machine

theorem busyBit_of_busy {s : State} (h : s.seq ≠ .idle) : busyBit s = true := (busyBit_eq_true_iff s).2 h

/-- R52: an engine in progress has issued no response, since a response leaves it idle. -/
theorem State.Inv.rsp_of_busy {s : State} (h : s.Inv) (hs : s.seq ≠ .idle) : s.rsp = none :=
  Option.eq_none_iff_forall_ne_some.2 fun a ha => hs (h.rsp_idle a ha)

theorem cmdReady_of_busy {s : State} (h : s.seq ≠ .idle) : s.ports.cmdReady = false := by
  simp [State.ports, cmdReadyPort, busyBit_of_busy h]

/-- R229: of STATUS a busy engine shows BUSY and TSERR; three bits are free. -/
theorem statusPort_of_busy {s : State} (h : s.seq ≠ .idle) :
    s.ports.status = statusWord true (Config.freeStatusBit s.draws 1) (tserrBit s)
      (Config.freeStatusBit s.draws 3) (Config.freeStatusBit s.draws 4) :=
  if_pos (busyBit_of_busy h)

/-- Settles O39: a busy engine has no response to show (`State.Inv.rsp_of_busy`), and the fixed bits of its STATUS
word are read off bit by bit (`statusPort_of_busy`, `statusWord_bits`). -/
theorem busyPorts : Obligations.BusyPorts := by
  intro s hinv hs
  obtain ⟨hbusy, -, htserr, -, -, hreserved⟩ := statusWord_bits true (Config.freeStatusBit s.draws 1) (tserrBit s)
    (Config.freeStatusBit s.draws 3) (Config.freeStatusBit s.draws 4)
  rw [statusPort_of_busy hs, htserr]
  exact ⟨cmdReady_of_busy hs, rspValid_of_no_response (hinv.rsp_of_busy hs), hbusy, tserrBit_eq_true_iff s, rfl,
    hreserved⟩

/-! ### Reset -/

/-- R50, R220: while `rst` is held the engine neither listens nor shows a response. -/
theorem handshakePorts_of_rst {s : State} (h : s.line.rst = true) :
    s.ports.cmdReady = false ∧ s.ports.rspValid = false := by
  simp [State.ports, cmdReadyPort, rspValidPort, h]

/-- R220, R222: `rst` comes before everything else on the lines and whatever is in progress. -/
theorem step_of_rst {s : State} (h : s.line.rst = true) :
    step s = .next (nextLook (State.resetOf s.tables s.inputs s.draws)) := by
  simp [step, actOnLines, afterLook, h]

/-- Settles O45: the step gives the reset state of the same table set (`step_of_rst`), and `rst` holds the ports low
(`handshakePorts_of_rst`). -/
theorem resetAbandonsEverything : Obligations.ResetAbandonsEverything := by
  intro s hrst
  obtain ⟨hready, hvalid⟩ := handshakePorts_of_rst hrst
  exact ⟨hready, hvalid, _, step_of_rst hrst, rfl, rfl, rfl, rfl, rfl, rfl, rfl⟩

end Sys2Proof.Machine
end

section
/-! SUPPORT. The known answers of FULL64 (95_test_vectors.md sections 2.1 to 2.3), each by the trace of its key
schedule and of its rounds. -/

namespace Sys2Proof.Machine

/-- A row of section 2.1 with the intermediate values that sections 2.2 and 2.3 trace for the first one: the round
keys, the halves `L_0`, `R_0` after the initial permutation and the halves `L_16`, `R_16` after the last round. -/
structure KnownAnswer where
  key : Nat
  block : Nat
  roundKeys : List Nat
  l₀ : Nat
  r₀ : Nat
  l₁₆ : Nat
  r₁₆ : Nat
  result : Nat

/-- The row as section 2.1 prints it: key, block, result. -/
def KnownAnswer.row (a : KnownAnswer) : Nat × Nat × Nat := (a.key, a.block, a.result)

/-- The round keys of a row as vectors. -/
def KnownAnswer.keys (a : KnownAnswer) : List BV := a.roundKeys.map (bv 48)

/-- FULL64 goes through the values the row states, from the key and the block to the result (R120, R160). -/
structure KnownAnswer.Traced (a : KnownAnswer) : Prop where
  schedule : deriveRoundKeys full64 (bv 64 a.key) = .ok a.keys
  initial : initialSplit full64 (bv 64 a.block) = .ok (bv 32 a.l₀, bv 32 a.r₀)
  rounds : feistelRounds full64 a.keys (bv 32 a.l₀) (bv 32 a.r₀) = .ok (bv 32 a.l₁₆, bv 32 a.r₁₆)
  final : permute (concat (bv 32 a.r₁₆) (bv 32 a.l₁₆)) full64.finalPermutation = .ok (bv 64 a.result)

theorem KnownAnswer.Traced.answer {a : KnownAnswer} (h : a.Traced) :
    ∃ ks, deriveRoundKeys full64 (bv 64 a.key) = .ok ks ∧
      transform full64 (bv 64 a.block) ks = .ok (bv 64 a.result) :=
  ⟨a.keys, h.schedule, transform_eq_ok_iff.2 ⟨bv_length _ _, _, _, _, _, h.initial, h.rounds, h.final⟩⟩

/-- K1, the row that sections 2.2 and 2.3 trace. -/
def knownAnswerK1 : KnownAnswer where
  key := 0x133457799BBCDFF1
  block := 0x0123456789ABCDEF
  roundKeys :=
    [0x1B02EFFC7072, 0x79AED9DBC9E5, 0x55FC8A42CF99, 0x72ADD6DB351D, 0x7CEC07EB53A8, 0x63A53E507B2F,
      0xEC84B7F618BC, 0xF78A3AC13BFB, 0xE0DBEBEDE781, 0xB1F347BA464F, 0x215FD3DED386, 0x7571F59467E9,
      0x97C5D1FABA41, 0x5F43B7F2E73A, 0xBF918D3D3F0A, 0xCB3D8B0E17F5]
  l₀ := 0xCC00CCFF
  r₀ := 0xF0AAF0AA
  l₁₆ := 0x43423234
  r₁₆ := 0x0A4CD995
  result := 0x85E813540F0AB405

/-- K2: PC1 leaves out every bit that is set in this key, so every round key is zero (R128). -/
def knownAnswerK2 : KnownAnswer where
  key := 0x0101010101010101
  block := 0x0000000000000000
  roundKeys := List.replicate 16 0
  l₀ := 0x00000000
  r₀ := 0x00000000
  l₁₆ := 0xBBEA0DC2
  r₁₆ := 0x1C2087FC
  result := 0x8CA64DE9C1B123A7

/-- K3. The model gave the intermediate values; the spec prints none for this row. -/
def knownAnswerK3 : KnownAnswer where
  key := 0x0123456789ABCDEF
  block := 0x4E6F772069732074
  roundKeys :=
    [0x0B02679B49A5, 0x69A659256A26, 0x45D48AB428D2, 0x7289D2A58257, 0x3CE80317A6C2, 0x23251E3C8545,
      0x6C04950AE4C6, 0x5788386CE581, 0xC0C9E926B839, 0x91E307631D72, 0x211F830D893A, 0x7130E5455C54,
      0x91C4D04980FC, 0x5443B681DC8D, 0xB691050A16B5, 0xCA3D03B87032]
  l₀ := 0xB7A48736
  r₀ := 0x00FE1327
  l₁₆ := 0x1A037D0D
  r₁₆ := 0x6091A7A1
  result := 0x3FA40E8A984D4815

/-- The table of section 2.1. -/
def knownAnswers : List KnownAnswer := [knownAnswerK1, knownAnswerK2, knownAnswerK3]

theorem knownAnswerK1_traced : knownAnswerK1.Traced where
  schedule := by decide
  initial := by decide
  rounds := by decide
  final := by decide

theorem knownAnswerK2_traced : knownAnswerK2.Traced where
  schedule := by decide
  initial := by decide
  rounds := by decide
  final := by decide

theorem knownAnswerK3_traced : knownAnswerK3.Traced where
  schedule := by decide
  initial := by decide
  rounds := by decide
  final := by decide

theorem knownAnswers_traced : ∀ a ∈ knownAnswers, a.Traced :=
  List.forall_mem_cons.2 ⟨knownAnswerK1_traced, List.forall_mem_cons.2
    ⟨knownAnswerK2_traced, List.forall_mem_singleton.2 knownAnswerK3_traced⟩⟩

/-- Settles O19: every row of the table is traced (`knownAnswers_traced`), so it is the answer its trace ends in
(`KnownAnswer.Traced.answer`). -/
theorem full64KnownAnswers : Obligations.Full64KnownAnswers := by
  intro kpc hmem
  obtain ⟨a, ha, rfl⟩ : ∃ a ∈ knownAnswers, a.row = kpc := List.mem_map.1 hmem
  exact (knownAnswers_traced a ha).answer

end Sys2Proof.Machine
end
